-- ==== Sys2Proof/Word.lean ====
section
/-! DEFINITION. The numbers the Cantrega 416's manual uses: bytes, lane and bin numbers, and its two counting rules. -/

namespace Sys2Proof

/-- A byte of the host line or a character of a code reader line. -/
abbrev Byte := BitVec 8

/-- A lane number, 0 to 3 (00 1.7). -/
abbrev Lane := Fin 4

/-- A bin number, 0 to 5 (00 1.7). -/
abbrev BinId := Fin 6

/-- A class number, 0 to 15 (00 1.7). -/
abbrev ClassId := Fin 16

/-- A ring position, 0 to 31 (R128). -/
abbrev Position := Fin 32

/-- The four lanes in number order. -/
def allLanes : List Lane := [0, 1, 2, 3]

/-- The six bins in number order. -/
def allBins : List BinId := [0, 1, 2, 3, 4, 5]

/-- The next sequence or session number: 65535 is followed by 1 (00 1.7, R6, R173). -/
def seqNext (n : Nat) : Nat := if 65535 ≤ n then 1 else n + 1

/-- One more, stopping at the stated maximum (00 1.7, saturating counters). -/
def satSucc (cap n : Nat) : Nat := if n < cap then n + 1 else cap

end Sys2Proof
end

