-- ==== Sys2Proof/Config.lean ====
section
/-! DEFINITION. The fixed constants of 00_scope.md 1.8, and the one value the manual leaves free. -/

namespace Sys2Proof.Config

/-- The resolution of the n-th "either may" choice the manual leaves open (R188, R192; notes 1, 5, 6, 7, 20, 24, 26).
It has no body: a claim that holds of the model holds whatever the part chooses. -/
opaque freeChoice : Nat → Nat

/-- Command intake buffer, frames (R184). -/
def intakeFrames : Nat := 4
/-- Report Queue, reports (R188). -/
def queueReports : Nat := 32
/-- Maximum frame body, bytes (R181). -/
def maxBody : Nat := 240
/-- Code reader line buffer, characters (R41). -/
def readerChars : Nat := 16
/-- Weighing window, samples (R51). -/
def windowSamples : Nat := 16
/-- Cold-start discard, samples (R50). -/
def coldStartDiscard : Nat := 64
/-- Lines of a session (R90, R165). -/
def sessionLines : Nat := 12
/-- Stray-light fault: consecutive contaminated scans (R32). -/
def strayLightScans : Nat := 3

/-- Admit time, ms (R15). -/
def admitTime : Nat := 3000
/-- Belt stall, ms (R4). -/
def beltStallTime : Nat := 500
/-- Bin detect debounce, ms (R148). -/
def detectDebounce : Nat := 100
/-- Bin power-up, ms (R150). -/
def powerUpTime : Nat := 2000
/-- Compaction timeout, s (R156). -/
def compactionTime : Nat := 20
/-- Diverter pulse, ms (R134). -/
def diverterPulse : Nat := 200
/-- Inter-byte timeout, ms (R183). -/
def interByteTime : Nat := 20
/-- Scan period, ms, in READY, STANDBY, the busy states and FAULT (R29). -/
def scanPeriod : Nat := 2
/-- Scan period, ms, in DORMANT (R29). -/
def dormantScanPeriod : Nat := 50

end Sys2Proof.Config
end

