-- ==== Sys2Proof/Syntax.lean ====
section
/-! DEFINITION. The rows of spec/opcode_table.json: the frames and raw command fields they carry, and `Instr`, one constructor per row. -/

namespace Sys2Proof

/-- A frame of the host line without its SYNC, LEN and CHECK, which follow from these (11 R201, the frame envelope). -/
structure Frame where
  kind : Byte
  tag  : Byte
  body : List Byte
  deriving DecidableEq, Repr, Inhabited

/-- What a command row carries besides its fields: the TAG, and the LEN byte as it was received, which R185 checks. -/
structure CmdHead where
  tag : Byte
  len : Nat
  deriving DecidableEq, Repr, Inhabited

/-- The result of a taken command, in the order of the Result enumeration (R186; 11.2). -/
inductive Result where
  | ok | unknownKind | badLength | badValue | wrongState | notCalibrated
  | noClasses | laneBusy | binInUse | late | workPresent
  deriving DecidableEq, Repr, Inhabited

/-- The raw fields of a SET_WINDOW body, each the number its bytes spell (R69, R203). -/
structure SetWindowFields where
  entry   : Nat
  enabled : Nat
  kind    : Nat
  length  : Nat
  low     : Nat
  high    : Nat
  cls     : Nat
  deriving DecidableEq, Repr, Inhabited

/-- The raw fields of a SET_CLASS body (R76, R203). -/
structure SetClassFields where
  cls         : Nat
  enabled     : Nat
  material    : Nat
  deposit     : Nat
  weightMin   : Nat
  weightMax   : Nat
  diameterMin : Nat
  diameterMax : Nat
  lengthMin   : Nat
  lengthMax   : Nat
  preferred   : Nat
  deriving DecidableEq, Repr, Inhabited

/-- The raw fields of a SET_BIN body (R146, R203). -/
structure SetBinFields where
  bin       : Nat
  position  : Nat
  materials : Nat
  capacity  : Nat
  nearFull  : Nat
  interval  : Nat
  fill      : Nat
  deriving DecidableEq, Repr, Inhabited

/-- The raw fields of a SET_LANE body (R26, R203); `zero` is the s32. -/
structure SetLaneFields where
  lane             : Nat
  beltPitch        : Nat
  stopDistance     : Nat
  maxLength        : Nat
  settleCount      : Nat
  stabilityLimit   : Nat
  attempts         : Nat
  autoZeroInterval : Nat
  zeroBand         : Nat
  queryEnabled     : Nat
  itemCap          : Nat
  valueCap         : Nat
  standbyTime      : Nat
  dormantTime      : Nat
  sessionIdleTime  : Nat
  handoffTime      : Nat
  returnTravel     : Nat
  zero             : Int
  span             : Nat
  deriving DecidableEq, Repr, Inhabited

/-- The raw fields of a SET_CORNER body (R196, R203). -/
structure SetCornerFields where
  queryTimeout      : Nat
  supervisionTime   : Nat
  startTime         : Nat
  stallTime         : Nat
  runOutTime        : Nat
  pocketReleaseTime : Nat
  catchCapacity     : Nat
  deriving DecidableEq, Repr, Inhabited

/-- What one scan of a lane reads (R28, R8): in the lit phase of group k a bit r of `lit k` is set when receiver line r
sees light; `dark` has a bit set for each receiver that sees light in the dark phase; the mouth beam and the voucher button
are read once per scan. -/
structure Scan where
  lit0   : Byte
  lit1   : Byte
  lit2   : Byte
  lit3   : Byte
  dark   : Byte
  mouth  : Bool
  button : Bool
  deriving DecidableEq, Repr, Inhabited

/-- The rows of spec/opcode_table.json, in the table's order. A host command row is the Command Processor's taking of a
frame of that kind (R185); its field operands are the raw numbers of the body. An event row carries the line it comes from
and what it reads. -/
inductive Instr where
  | setWindow (h : CmdHead) (f : SetWindowFields)
  | setClass (h : CmdHead) (f : SetClassFields)
  | setBin (h : CmdHead) (f : SetBinFields)
  | setLane (h : CmdHead) (f : SetLaneFields)
  | setCorner (h : CmdHead) (f : SetCornerFields)
  | openLane (h : CmdHead) (lane : Nat)
  | closeLane (h : CmdHead) (lane : Nat)
  | zero (h : CmdHead) (lane : Nat)
  | span (h : CmdHead) (lane mass : Nat)
  | codeAnswer (h : CmdHead) (lane seq answer : Nat)
  | binServiceBegin (h : CmdHead) (bin fill : Nat)
  | binServiceEnd (h : CmdHead) (bin fill : Nat)
  | catchEmptied (h : CmdHead)
  | clearLaneRetry (h : CmdHead) (lane : Nat)
  | clearLaneReturn (h : CmdHead) (lane : Nat)
  | clearLaneDiscard (h : CmdHead) (lane : Nat)
  | clearConveyor (h : CmdHead)
  | clearPocket (h : CmdHead)
  | clearBin (h : CmdHead) (bin : Nat)
  | haltOn (h : CmdHead)
  | haltOff (h : CmdHead)
  | queryLane (h : CmdHead) (lane : Nat)
  | queryBin (h : CmdHead) (bin : Nat)
  | queryRing (h : CmdHead)
  | queryCounters (h : CmdHead)
  | querySession (h : CmdHead) (lane : Nat)
  | restart (h : CmdHead) (force : Nat)
  | unknownKindCommand (frame : Frame)
  | frameReceived (frame : Frame) (check : BitVec 16)
  | interByteTimeout
  | linkLost
  | frameTransmitted
  | heldOutReportEnters
  | curtainScan (lane : Lane) (scan : Scan)
  | mouthBeamChange (lane : Lane) (blocked : Bool)
  | voucherButtonPress (lane : Lane)
  | admission (lane : Lane)
  | encoderPulse (lane : Lane)
  | admitTimerExpiry (lane : Lane)
  | beltStall (lane : Lane)
  | standbyTimerExpiry (lane : Lane)
  | dormantTimerExpiry (lane : Lane)
  | sessionIdleTimerExpiry (lane : Lane)
  | laneEntersClosed (lane : Lane)
  | readerCharacter (lane : Lane) (char : Byte) (framingError : Bool)
  | converterSample (lane : Lane) (sample : BitVec 16)
  | autoZeroTimerExpiry (lane : Lane)
  | queryTimerExpiry (lane : Lane)
  | pocketGrant
  | pocketBeamChange (blocked : Bool)
  | handoffTimerExpiry
  | releaseTimerExpiry
  | indexAdvance
  | conveyorStarting
  | conveyorRunOut
  | startTimerExpiry
  | stallTimerExpiry
  | runOutTimerExpiry
  | diverterPulseEnd (bin : BinId)
  | binEntryBeamBlocked (bin : BinId)
  | endOfLineBeamBlocked
  | binDetectContactChange (bin : BinId) (contactA contactB : Bool)
  | seatingDebounceExpiry (bin : BinId)
  | binReadyChange (bin : BinId) (asserted : Bool)
  | powerUpTimerExpiry (bin : BinId)
  | compactingEntry (bin : BinId)
  | compactorDone (bin : BinId)
  | compactionTimerExpiry (bin : BinId)
  | voucherOffer (lane : Lane)
  | resetAsserted
  | resetReleased
  | hostByteReceived (byte : Byte) (framingError : Bool)
  deriving DecidableEq, Repr

end Sys2Proof
end

