-- ==== Sys2Proof/WellFormed.lean ====
section
/-! DEFINITION. Which rows can occur: every raw field fits the type of its place in the body (11.2, R202), a frame fits the
envelope (R181), a row with a selector has the byte its selector stands in (R185), and UNKNOWN_KIND_COMMAND names no command. -/

namespace Sys2Proof

/-- The number fits an unsigned field of n bytes (u8, u16, u32, u48; 11.2). -/
def fitsBytes (n v : Nat) : Bool := decide (v < 256 ^ n)

/-- The number fits the s32 type (11.2). -/
def fitsS32 (z : Int) : Bool := decide (-2147483648 ≤ z) && decide (z ≤ 2147483647)

/-- The LEN byte of a frame that completed (R181). -/
def CmdHead.fits (h : CmdHead) : Bool := decide (h.len ≤ Config.maxBody)

/-- The LEN byte of a frame whose KIND has variants, which holds at least its selector (R185, R203). -/
def CmdHead.fitsSelector (h : CmdHead) : Bool := h.fits && decide (1 ≤ h.len)

/-- The KIND names one of the fifteen commands (R185; 11.1, 0x01 to 0x0F). -/
def isCommandKind (k : Byte) : Bool := decide (1 ≤ k.toNat) && decide (k.toNat ≤ 15)

/-- Field types of a SET_WINDOW body (R203). -/
def SetWindowFields.fits (f : SetWindowFields) : Bool :=
  fitsBytes 1 f.entry && fitsBytes 1 f.enabled && fitsBytes 1 f.kind && fitsBytes 1 f.length &&
  fitsBytes 6 f.low && fitsBytes 6 f.high && fitsBytes 1 f.cls

/-- Field types of a SET_CLASS body (R203). -/
def SetClassFields.fits (f : SetClassFields) : Bool :=
  fitsBytes 1 f.cls && fitsBytes 1 f.enabled && fitsBytes 1 f.material && fitsBytes 2 f.deposit &&
  fitsBytes 2 f.weightMin && fitsBytes 2 f.weightMax && fitsBytes 1 f.diameterMin && fitsBytes 1 f.diameterMax &&
  fitsBytes 2 f.lengthMin && fitsBytes 2 f.lengthMax && fitsBytes 1 f.preferred

/-- Field types of a SET_BIN body (R203). -/
def SetBinFields.fits (f : SetBinFields) : Bool :=
  fitsBytes 1 f.bin && fitsBytes 1 f.position && fitsBytes 1 f.materials && fitsBytes 2 f.capacity &&
  fitsBytes 2 f.nearFull && fitsBytes 1 f.interval && fitsBytes 2 f.fill

/-- Field types of a SET_LANE body (R203). -/
def SetLaneFields.fits (f : SetLaneFields) : Bool :=
  fitsBytes 1 f.lane && fitsBytes 1 f.beltPitch && fitsBytes 2 f.stopDistance && fitsBytes 2 f.maxLength &&
  fitsBytes 1 f.settleCount && fitsBytes 2 f.stabilityLimit && fitsBytes 1 f.attempts &&
  fitsBytes 2 f.autoZeroInterval && fitsBytes 1 f.zeroBand && fitsBytes 1 f.queryEnabled &&
  fitsBytes 2 f.itemCap && fitsBytes 4 f.valueCap && fitsBytes 2 f.standbyTime && fitsBytes 2 f.dormantTime &&
  fitsBytes 2 f.sessionIdleTime && fitsBytes 2 f.handoffTime && fitsBytes 2 f.returnTravel &&
  fitsS32 f.zero && fitsBytes 2 f.span

/-- Field types of a SET_CORNER body (R203). -/
def SetCornerFields.fits (f : SetCornerFields) : Bool :=
  fitsBytes 2 f.queryTimeout && fitsBytes 1 f.supervisionTime && fitsBytes 2 f.startTime &&
  fitsBytes 2 f.stallTime && fitsBytes 1 f.runOutTime && fitsBytes 2 f.pocketReleaseTime && fitsBytes 1 f.catchCapacity

/-- The row is one that can occur. -/
def Instr.wellFormed (i : Instr) : Bool :=
  match i with
  | .setWindow h f => h.fits && f.fits
  | .setClass h f => h.fits && f.fits
  | .setBin h f => h.fits && f.fits
  | .setLane h f => h.fits && f.fits
  | .setCorner h f => h.fits && f.fits
  | .openLane h lane => h.fitsSelector && fitsBytes 1 lane
  | .closeLane h lane => h.fitsSelector && fitsBytes 1 lane
  | .zero h lane => h.fits && fitsBytes 1 lane
  | .span h lane mass => h.fits && fitsBytes 1 lane && fitsBytes 2 mass
  | .codeAnswer h lane seq answer => h.fits && fitsBytes 1 lane && fitsBytes 2 seq && fitsBytes 1 answer
  | .binServiceBegin h bin fill => h.fits && fitsBytes 1 bin && fitsBytes 2 fill
  | .binServiceEnd h bin fill => h.fits && fitsBytes 1 bin && fitsBytes 2 fill
  | .catchEmptied h => h.fits
  | .clearLaneRetry h lane => h.fitsSelector && fitsBytes 1 lane
  | .clearLaneReturn h lane => h.fitsSelector && fitsBytes 1 lane
  | .clearLaneDiscard h lane => h.fitsSelector && fitsBytes 1 lane
  | .clearConveyor h => h.fitsSelector
  | .clearPocket h => h.fitsSelector
  | .clearBin h bin => h.fitsSelector && fitsBytes 1 bin
  | .haltOn h => h.fits
  | .haltOff h => h.fits
  | .queryLane h lane => h.fitsSelector && fitsBytes 1 lane
  | .queryBin h bin => h.fitsSelector && fitsBytes 1 bin
  | .queryRing h => h.fitsSelector
  | .queryCounters h => h.fitsSelector
  | .querySession h lane => h.fitsSelector && fitsBytes 1 lane
  | .restart h force => h.fits && fitsBytes 1 force
  | .unknownKindCommand f => !isCommandKind f.kind && decide (f.body.length ≤ Config.maxBody)
  | .frameReceived f _ => decide (f.body.length ≤ Config.maxBody)
  | .interByteTimeout => true
  | .linkLost => true
  | .frameTransmitted => true
  | .heldOutReportEnters => true
  | .curtainScan _ _ => true
  | .mouthBeamChange _ _ => true
  | .voucherButtonPress _ => true
  | .admission _ => true
  | .encoderPulse _ => true
  | .admitTimerExpiry _ => true
  | .beltStall _ => true
  | .standbyTimerExpiry _ => true
  | .dormantTimerExpiry _ => true
  | .sessionIdleTimerExpiry _ => true
  | .laneEntersClosed _ => true
  | .readerCharacter _ _ _ => true
  | .converterSample _ _ => true
  | .autoZeroTimerExpiry _ => true
  | .queryTimerExpiry _ => true
  | .pocketGrant => true
  | .pocketBeamChange _ => true
  | .handoffTimerExpiry => true
  | .releaseTimerExpiry => true
  | .indexAdvance => true
  | .conveyorStarting => true
  | .conveyorRunOut => true
  | .startTimerExpiry => true
  | .stallTimerExpiry => true
  | .runOutTimerExpiry => true
  | .diverterPulseEnd _ => true
  | .binEntryBeamBlocked _ => true
  | .endOfLineBeamBlocked => true
  | .binDetectContactChange _ _ _ => true
  | .seatingDebounceExpiry _ => true
  | .binReadyChange _ _ => true
  | .powerUpTimerExpiry _ => true
  | .compactingEntry _ => true
  | .compactorDone _ => true
  | .compactionTimerExpiry _ => true
  | .voucherOffer _ => true
  | .resetAsserted => true
  | .resetReleased => true
  | .hostByteReceived _ _ => true

end Sys2Proof
end

