-- ==== Sys2Proof/Decode.lean ====
section
/-! DEFINITION. Reading and writing the host line: byte order, the frame envelope (11.1), command bodies to rows of the table
(R185, R202, R203) and back. `decodeTableWord` answers none for every word: no row of spec/opcode_table.json gives bits. -/

namespace Sys2Proof

/-- The n low bytes of v, low byte first (11.2). -/
def leBytes : Nat → Nat → List Byte
  | 0, _ => []
  | n + 1, v => BitVec.ofNat 8 v :: leBytes n (v / 256)

/-- The number a byte string spells, low byte first (11.2). -/
def leNat : List Byte → Nat
  | [] => 0
  | b :: bs => b.toNat + 256 * leNat bs

/-- The s32 bytes of z (11.2). -/
def s32Bytes (z : Int) : List Byte := leBytes 4 (BitVec.ofInt 32 z).toNat

/-- The signed number that four bytes spell (11.2). -/
def s32Of (bs : List Byte) : Int := (BitVec.ofNat 32 (leNat bs)).toInt

/-- The n-byte unsigned field at an offset of a body (11.2). -/
def fieldAt (body : List Byte) (off n : Nat) : Nat := leNat ((body.drop off).take n)

/-- The CHECK of a frame: the sum of its LEN, KIND, TAG and body bytes modulo 65536 (R182, R201). -/
def frameCheck (len kind tag : Byte) (body : List Byte) : BitVec 16 :=
  BitVec.ofNat 16 (len.toNat + kind.toNat + tag.toNat + (body.map BitVec.toNat).sum)

/-- The bytes of a frame on the line (11.1, R201). -/
def Frame.wire (f : Frame) : List Byte :=
  let len := BitVec.ofNat 8 f.body.length
  0xA5#8 :: len :: f.kind :: f.tag :: (f.body ++ leBytes 2 (frameCheck len f.kind f.tag f.body).toNat)

/-- A body cut or filled with zero bytes to the LEN a row's head carries. -/
def fitBody (len : Nat) (bytes : List Byte) : List Byte := (bytes ++ List.replicate len 0#8).take len

/-- What the Command Processor's reading of a frame gives: a result that refuses it, or the row it stands for. -/
inductive Reading where
  | refused (r : Result)
  | command (i : Instr)
  deriving DecidableEq, Repr

/-- The row, where LEN equals the body length of the kind or variant; BAD_LENGTH otherwise (R185, R203). -/
def withLen (body : List Byte) (len : Nat) (i : Instr) : Reading :=
  if body.length = len then .command i else .refused .badLength

def readSetWindow (b : List Byte) : SetWindowFields :=
  ⟨fieldAt b 0 1, fieldAt b 1 1, fieldAt b 2 1, fieldAt b 3 1, fieldAt b 4 6, fieldAt b 10 6, fieldAt b 16 1⟩

def readSetClass (b : List Byte) : SetClassFields :=
  ⟨fieldAt b 0 1, fieldAt b 1 1, fieldAt b 2 1, fieldAt b 3 2, fieldAt b 5 2, fieldAt b 7 2,
   fieldAt b 9 1, fieldAt b 10 1, fieldAt b 11 2, fieldAt b 13 2, fieldAt b 15 1⟩

def readSetBin (b : List Byte) : SetBinFields :=
  ⟨fieldAt b 0 1, fieldAt b 1 1, fieldAt b 2 1, fieldAt b 3 2, fieldAt b 5 2, fieldAt b 7 1, fieldAt b 8 2⟩

/-- The offsets R203 counts out: 0, 1, 2, 4, 6, 7, 9, 10, 12, 13, 14, 16, 20, 22, 24, 26, 28, 30, 34. -/
def readSetLane (b : List Byte) : SetLaneFields :=
  ⟨fieldAt b 0 1, fieldAt b 1 1, fieldAt b 2 2, fieldAt b 4 2, fieldAt b 6 1, fieldAt b 7 2, fieldAt b 9 1,
   fieldAt b 10 2, fieldAt b 12 1, fieldAt b 13 1, fieldAt b 14 2, fieldAt b 16 4, fieldAt b 20 2, fieldAt b 22 2,
   fieldAt b 24 2, fieldAt b 26 2, fieldAt b 28 2, s32Of ((b.drop 30).take 4), fieldAt b 34 2⟩

def readSetCorner (b : List Byte) : SetCornerFields :=
  ⟨fieldAt b 0 2, fieldAt b 2 1, fieldAt b 3 2, fieldAt b 5 2, fieldAt b 7 1, fieldAt b 8 2, fieldAt b 10 1⟩

/-- OPEN_LANE and CLOSE_LANE: the selector is the first body byte, checked before LEN (R185, R203). -/
def readOpenClose (h : CmdHead) (b : List Byte) : Reading :=
  match b with
  | [] => .refused .badLength
  | sel :: _ =>
    match sel.toNat with
    | 0 => withLen b 2 (.openLane h (fieldAt b 1 1))
    | 1 => withLen b 2 (.closeLane h (fieldAt b 1 1))
    | _ => .refused .badValue

/-- BIN_SERVICE: 4 bytes for both actions; the action is an ordinary field (R203). -/
def readBinService (h : CmdHead) (b : List Byte) : Reading :=
  if b.length = 4 then
    match fieldAt b 0 1 with
    | 0 => .command (.binServiceBegin h (fieldAt b 1 1) (fieldAt b 2 2))
    | 1 => .command (.binServiceEnd h (fieldAt b 1 1) (fieldAt b 2 2))
    | _ => .refused .badValue
  else .refused .badLength

/-- CLEAR with a lane target: the action is an ordinary field, and one with no name is BAD_VALUE (R22, R202, R203). -/
def readClearLane (h : CmdHead) (b : List Byte) : Reading :=
  if b.length = 3 then
    match fieldAt b 2 1 with
    | 0 => .command (.clearLaneRetry h (fieldAt b 1 1))
    | 1 => .command (.clearLaneReturn h (fieldAt b 1 1))
    | 2 => .command (.clearLaneDiscard h (fieldAt b 1 1))
    | _ => .refused .badValue
  else .refused .badLength

/-- CLEAR: the target is the selector (R203). -/
def readClear (h : CmdHead) (b : List Byte) : Reading :=
  match b with
  | [] => .refused .badLength
  | target :: _ =>
    match target.toNat with
    | 0 => readClearLane h b
    | 1 => withLen b 1 (.clearConveyor h)
    | 2 => withLen b 1 (.clearPocket h)
    | 3 => withLen b 2 (.clearBin h (fieldAt b 1 1))
    | _ => .refused .badValue

/-- HALT: one flag; a value other than 0 and 1 is BAD_VALUE (R125, R202). -/
def readHalt (h : CmdHead) (b : List Byte) : Reading :=
  if b.length = 1 then
    match fieldAt b 0 1 with
    | 0 => .command (.haltOff h)
    | 1 => .command (.haltOn h)
    | _ => .refused .badValue
  else .refused .badLength

/-- QUERY: the subject is the selector (R203). -/
def readQuery (h : CmdHead) (b : List Byte) : Reading :=
  match b with
  | [] => .refused .badLength
  | subject :: _ =>
    match subject.toNat with
    | 0 => withLen b 2 (.queryLane h (fieldAt b 1 1))
    | 1 => withLen b 2 (.queryBin h (fieldAt b 1 1))
    | 2 => withLen b 1 (.queryRing h)
    | 3 => withLen b 1 (.queryCounters h)
    | 4 => withLen b 2 (.querySession h (fieldAt b 1 1))
    | _ => .refused .badValue

/-- The first four checks of R185: KIND, selector present, selector known, LEN. The fields are read by their types (R202);
their ranges are checked by the owning rule. A KIND that names no command reads as the row UNKNOWN_KIND_COMMAND. -/
def commandOfFrame (f : Frame) : Reading :=
  let h : CmdHead := ⟨f.tag, f.body.length⟩
  let b := f.body
  match f.kind.toNat with
  | 1 => withLen b 17 (.setWindow h (readSetWindow b))
  | 2 => withLen b 16 (.setClass h (readSetClass b))
  | 3 => withLen b 10 (.setBin h (readSetBin b))
  | 4 => withLen b 36 (.setLane h (readSetLane b))
  | 5 => withLen b 11 (.setCorner h (readSetCorner b))
  | 6 => readOpenClose h b
  | 7 => withLen b 1 (.zero h (fieldAt b 0 1))
  | 8 => withLen b 3 (.span h (fieldAt b 0 1) (fieldAt b 1 2))
  | 9 => withLen b 4 (.codeAnswer h (fieldAt b 0 1) (fieldAt b 1 2) (fieldAt b 3 1))
  | 10 => readBinService h b
  | 11 => withLen b 0 (.catchEmptied h)
  | 12 => readClear h b
  | 13 => readHalt h b
  | 14 => readQuery h b
  | 15 => withLen b 1 (.restart h (fieldAt b 0 1))
  | _ => .command (.unknownKindCommand f)

def writeSetWindow (f : SetWindowFields) : List Byte :=
  leBytes 1 f.entry ++ leBytes 1 f.enabled ++ leBytes 1 f.kind ++ leBytes 1 f.length ++ leBytes 6 f.low ++
  leBytes 6 f.high ++ leBytes 1 f.cls

def writeSetClass (f : SetClassFields) : List Byte :=
  leBytes 1 f.cls ++ leBytes 1 f.enabled ++ leBytes 1 f.material ++ leBytes 2 f.deposit ++ leBytes 2 f.weightMin ++
  leBytes 2 f.weightMax ++ leBytes 1 f.diameterMin ++ leBytes 1 f.diameterMax ++ leBytes 2 f.lengthMin ++
  leBytes 2 f.lengthMax ++ leBytes 1 f.preferred

def writeSetBin (f : SetBinFields) : List Byte :=
  leBytes 1 f.bin ++ leBytes 1 f.position ++ leBytes 1 f.materials ++ leBytes 2 f.capacity ++ leBytes 2 f.nearFull ++
  leBytes 1 f.interval ++ leBytes 2 f.fill

def writeSetLane (f : SetLaneFields) : List Byte :=
  leBytes 1 f.lane ++ leBytes 1 f.beltPitch ++ leBytes 2 f.stopDistance ++ leBytes 2 f.maxLength ++
  leBytes 1 f.settleCount ++ leBytes 2 f.stabilityLimit ++ leBytes 1 f.attempts ++ leBytes 2 f.autoZeroInterval ++
  leBytes 1 f.zeroBand ++ leBytes 1 f.queryEnabled ++ leBytes 2 f.itemCap ++ leBytes 4 f.valueCap ++
  leBytes 2 f.standbyTime ++ leBytes 2 f.dormantTime ++ leBytes 2 f.sessionIdleTime ++ leBytes 2 f.handoffTime ++
  leBytes 2 f.returnTravel ++ s32Bytes f.zero ++ leBytes 2 f.span

def writeSetCorner (f : SetCornerFields) : List Byte :=
  leBytes 2 f.queryTimeout ++ leBytes 1 f.supervisionTime ++ leBytes 2 f.startTime ++ leBytes 2 f.stallTime ++
  leBytes 1 f.runOutTime ++ leBytes 2 f.pocketReleaseTime ++ leBytes 1 f.catchCapacity

/-- The frame of a host command row (R203), with the LEN its head carries; none for a row that is no command. -/
def frameOf (i : Instr) : Option Frame :=
  let mk (kind : Byte) (h : CmdHead) (bytes : List Byte) : Option Frame := some ⟨kind, h.tag, fitBody h.len bytes⟩
  match i with
  | .setWindow h f => mk 0x01#8 h (writeSetWindow f)
  | .setClass h f => mk 0x02#8 h (writeSetClass f)
  | .setBin h f => mk 0x03#8 h (writeSetBin f)
  | .setLane h f => mk 0x04#8 h (writeSetLane f)
  | .setCorner h f => mk 0x05#8 h (writeSetCorner f)
  | .openLane h lane => mk 0x06#8 h (leBytes 1 0 ++ leBytes 1 lane)
  | .closeLane h lane => mk 0x06#8 h (leBytes 1 1 ++ leBytes 1 lane)
  | .zero h lane => mk 0x07#8 h (leBytes 1 lane)
  | .span h lane mass => mk 0x08#8 h (leBytes 1 lane ++ leBytes 2 mass)
  | .codeAnswer h lane seq answer => mk 0x09#8 h (leBytes 1 lane ++ leBytes 2 seq ++ leBytes 1 answer)
  | .binServiceBegin h bin fill => mk 0x0A#8 h (leBytes 1 0 ++ leBytes 1 bin ++ leBytes 2 fill)
  | .binServiceEnd h bin fill => mk 0x0A#8 h (leBytes 1 1 ++ leBytes 1 bin ++ leBytes 2 fill)
  | .catchEmptied h => mk 0x0B#8 h []
  | .clearLaneRetry h lane => mk 0x0C#8 h (leBytes 1 0 ++ leBytes 1 lane ++ leBytes 1 0)
  | .clearLaneReturn h lane => mk 0x0C#8 h (leBytes 1 0 ++ leBytes 1 lane ++ leBytes 1 1)
  | .clearLaneDiscard h lane => mk 0x0C#8 h (leBytes 1 0 ++ leBytes 1 lane ++ leBytes 1 2)
  | .clearConveyor h => mk 0x0C#8 h (leBytes 1 1)
  | .clearPocket h => mk 0x0C#8 h (leBytes 1 2)
  | .clearBin h bin => mk 0x0C#8 h (leBytes 1 3 ++ leBytes 1 bin)
  | .haltOn h => mk 0x0D#8 h (leBytes 1 1)
  | .haltOff h => mk 0x0D#8 h (leBytes 1 0)
  | .queryLane h lane => mk 0x0E#8 h (leBytes 1 0 ++ leBytes 1 lane)
  | .queryBin h bin => mk 0x0E#8 h (leBytes 1 1 ++ leBytes 1 bin)
  | .queryRing h => mk 0x0E#8 h (leBytes 1 2)
  | .queryCounters h => mk 0x0E#8 h (leBytes 1 3)
  | .querySession h lane => mk 0x0E#8 h (leBytes 1 4 ++ leBytes 1 lane)
  | .restart h force => mk 0x0F#8 h (leBytes 1 force)
  | .unknownKindCommand f => some f
  | _ => none

/-- The body length of a command row, where the row is a command whose length R203 fixes. -/
def bodyLength (i : Instr) : Option Nat :=
  match i with
  | .setWindow _ _ => some 17
  | .setClass _ _ => some 16
  | .setBin _ _ => some 10
  | .setLane _ _ => some 36
  | .setCorner _ _ => some 11
  | .openLane _ _ => some 2
  | .closeLane _ _ => some 2
  | .zero _ _ => some 1
  | .span _ _ _ => some 3
  | .codeAnswer _ _ _ _ => some 4
  | .binServiceBegin _ _ _ => some 4
  | .binServiceEnd _ _ _ => some 4
  | .catchEmptied _ => some 0
  | .clearLaneRetry _ _ => some 3
  | .clearLaneReturn _ _ => some 3
  | .clearLaneDiscard _ _ => some 3
  | .clearConveyor _ => some 1
  | .clearPocket _ => some 1
  | .clearBin _ _ => some 2
  | .haltOn _ => some 1
  | .haltOff _ => some 1
  | .queryLane _ _ => some 2
  | .queryBin _ _ => some 2
  | .queryRing _ => some 1
  | .queryCounters _ => some 1
  | .querySession _ _ => some 2
  | .restart _ _ => some 1
  | _ => none

/-- The head of a host command row. -/
def headOf (i : Instr) : Option CmdHead :=
  match i with
  | .setWindow h _ => some h
  | .setClass h _ => some h
  | .setBin h _ => some h
  | .setLane h _ => some h
  | .setCorner h _ => some h
  | .openLane h _ => some h
  | .closeLane h _ => some h
  | .zero h _ => some h
  | .span h _ _ => some h
  | .codeAnswer h _ _ _ => some h
  | .binServiceBegin h _ _ => some h
  | .binServiceEnd h _ _ => some h
  | .catchEmptied h => some h
  | .clearLaneRetry h _ => some h
  | .clearLaneReturn h _ => some h
  | .clearLaneDiscard h _ => some h
  | .clearConveyor h => some h
  | .clearPocket h => some h
  | .clearBin h _ => some h
  | .haltOn h => some h
  | .haltOff h => some h
  | .queryLane h _ => some h
  | .queryBin h _ => some h
  | .queryRing h => some h
  | .queryCounters h => some h
  | .querySession h _ => some h
  | .restart h _ => some h
  | _ => none

/-- The row a word spells by the table's bits: none, since no row of spec/opcode_table.json gives bits. -/
def decodeTableWord (_nbits _w : Nat) : Option Instr := none

end Sys2Proof
end

