-- ==== Sys2Proof/Machine/State.lean ====
section
/-! DEFINITION. The state of the Cantrega 416: every item the manual gives its blocks, as plain data, and the state right after
pin reset. INVENTORY.md lists each with its rule and reset value. -/

namespace Sys2Proof.Machine

/-! ### Values of record, lane and table fields -/

/-- The four materials (R75), in the order of 11.2. -/
inductive Material where
  | plastic | metal | glass | carton
  deriving DecidableEq, Repr, Inhabited

/-- A set of materials (R145; 11.2, material set). -/
structure MaterialSet where
  plastic : Bool
  metal   : Bool
  glass   : Bool
  carton  : Bool
  deriving DecidableEq, Repr, Inhabited

/-- A code: its length, 8 or 13, and its value (00 1.7, R43). -/
structure Code where
  length : Nat
  value  : Nat
  deriving DecidableEq, Repr, Inhabited

/-- The converter gains (R48). -/
inductive Gain where
  | g16 | g4 | g1
  deriving DecidableEq, Repr, Inhabited

/-- The weighing result of a record (R7, R56); a weight is in decigrams. -/
inductive Weighing where
  | weight (dg : Nat)
  | overweight
  | unstable
  deriving DecidableEq, Repr, Inhabited

/-- The sixteen reject reasons, in the order of 11.2. -/
inductive Reason where
  | double | long | overweight | unstable | conflict | badCheck | noCode | excluded | unknown | queryTimeout
  | classOff | underweight | shape | limit | noBin | cleared
  deriving DecidableEq, Repr, Inhabited

/-- A verdict (R7, R85). -/
inductive Verdict where
  | accept
  | reject (reason : Reason)
  deriving DecidableEq, Repr, Inhabited

/-- A container record (R7). Diameter is in beams, length in mm, unit value in cents. -/
structure ContainerRecord where
  lane        : Lane
  seq         : Nat
  diameter    : Option Nat
  length      : Option Nat
  code        : Option Code
  badReads    : Nat
  conflict    : Bool
  weighing    : Option Weighing
  gain        : Option Gain
  verdict     : Option Verdict
  cls         : Option ClassId
  material    : Option Material
  unitValue   : Option Nat
  destination : Option BinId
  deriving DecidableEq, Repr, Inhabited

/-! ### The Lane Unit -/

/-- The eleven lane states (R1), in the order of 11.2. -/
inductive LaneState where
  | closed | ready | standby | dormant | admitting | weigh | query | hold | handoff | returning | fault
  deriving DecidableEq, Repr, Inhabited

/-- The lane fault causes (R1, R21). -/
inductive LaneFault where
  | beltStall | mouthStuck | strayLight | handoffTimeout | returnLost | scaleNegative
  deriving DecidableEq, Repr, Inhabited

/-- The admission-hold causes present at a lane (R1, R10, R11). -/
structure HoldSet where
  link           : Bool
  conveyor       : Bool
  sessionClosing : Bool
  closePending   : Bool
  deriving DecidableEq, Repr, Inhabited

/-- The belt drive output of a lane (R4). -/
inductive BeltDrive where
  | off | forward | reverse
  deriving DecidableEq, Repr, Inhabited

/-- A beam or line read once per scan and settled after two agreeing readings (R8). -/
structure Debounced where
  settled : Bool
  pending : Bool
  deriving DecidableEq, Repr, Inhabited

/-- The lane configuration of R26 but for Z and K, with the units of that table. -/
structure LaneConfig where
  beltPitch        : Nat
  stopDistance     : Nat
  maxLength        : Nat
  settleCount      : Nat
  stabilityLimit   : Nat
  attempts         : Nat
  autoZeroInterval : Nat
  zeroBand         : Nat
  queryEnabled     : Bool
  itemCap          : Nat
  valueCap         : Nat
  standbyTime      : Nat
  dormantTime      : Nat
  sessionIdleTime  : Nat
  handoffTime      : Nat
  returnTravel     : Nat
  deriving DecidableEq, Repr, Inhabited

/-- The phases of a profile (R34). -/
inductive ProfilePhase where
  | none | waiting | passing | stopping | ended
  deriving DecidableEq, Repr, Inhabited

/-- The Curtain Scanner of a lane (R31, R32, R34); bit i of the beam sets is beam i, set when blocked. -/
structure Curtain where
  settled : BitVec 32
  pending : BitVec 32
  stray   : Nat
  phase   : ProfilePhase
  pulses  : Nat
  extent  : Nat
  stops   : Nat
  deriving DecidableEq, Repr, Inhabited

/-- The Code Reader Port of a lane (R41). -/
structure ReaderPort where
  buffer   : List Byte
  badLine  : Bool
  skipping : Bool
  deriving DecidableEq, Repr, Inhabited

/-- What a run of the Weigher is for (R49). -/
inductive RunKind where
  | none | container | zero | span | autoZero
  deriving DecidableEq, Repr, Inhabited

/-- The phase of a run (R49). -/
inductive RunPhase where
  | idle | discard | window
  deriving DecidableEq, Repr, Inhabited

/-- The Weigher of a lane (R49); `coldDiscard` marks the 64-sample discard taken because of cold-start (R50). -/
structure Weigher where
  run              : RunKind
  phase            : RunPhase
  gain             : Gain
  discardRemaining : Nat
  coldDiscard      : Bool
  samples          : List Int
  attempts         : Nat
  refMass          : Option Nat
  deriving DecidableEq, Repr, Inhabited

/-- The query context of a lane (R95); `length` is the length in ms of the running query timer. -/
inductive QueryContext where
  | idle
  | waitingRoom (seq : Nat) (code : Code)
  | opened (seq : Nat) (code : Code) (length : Nat)
  deriving DecidableEq, Repr, Inhabited

/-- The session states (R165). -/
inductive SessionState where
  | none | opened | closing
  deriving DecidableEq, Repr, Inhabited

/-- Why a session closes (R165, R169). -/
inductive CloseCause where
  | button | idle | laneClosed
  deriving DecidableEq, Repr, Inhabited

/-- A line of a session, keyed by class and unit value (R165). -/
structure SessionLine where
  cls       : ClassId
  unitValue : Nat
  count     : Nat
  lineValue : Nat
  deriving DecidableEq, Repr, Inhabited

/-- The session of a lane (R165). -/
structure Session where
  state          : SessionState
  number         : Nat
  cause          : Option CloseCause
  lines          : List SessionLine
  itemCount      : Nat
  valueTotal     : Nat
  rejected       : Nat
  voucherWaiting : Bool
  deriving DecidableEq, Repr, Inhabited

/-- A Lane Unit with its measuring sub-blocks, and the query context and session that the Judgement Unit and the Session Unit
hold for it. `mouthOpen` is the second case of R2: in ADMIT, the mouth beam has not yet settled clear since entry. -/
structure LaneUnit where
  state         : LaneState
  faultCause    : Option LaneFault
  holds         : HoldSet
  closePending  : Bool
  coldStart     : Bool
  calRunning    : Bool
  nextSeq       : Nat
  lastWithdrawn : Nat
  config        : LaneConfig
  zero          : Int
  span          : Nat
  record        : Option ContainerRecord
  belt          : BeltDrive
  shutter       : Bool
  mouthOpen     : Bool
  returnTravel  : Nat
  mouth         : Debounced
  button        : Debounced
  curtain       : Curtain
  reader        : ReaderPort
  weigher       : Weigher
  converterOn   : Bool
  query         : QueryContext
  session       : Session
  deriving DecidableEq, Repr, Inhabited

/-! ### The Judgement Unit's tables -/

/-- The kind of a code window (R68). -/
inductive WindowKind where
  | includes | excludes
  deriving DecidableEq, Repr, Inhabited

/-- An entry of the Code Window Table (R68). -/
structure CodeWindow where
  enabled : Bool
  kind    : WindowKind
  length  : Nat
  low     : Nat
  high    : Nat
  cls     : ClassId
  deriving DecidableEq, Repr, Inhabited

/-- An entry of the Class Profile Table (R75). -/
structure ClassProfile where
  enabled     : Bool
  material    : Material
  deposit     : Nat
  weightMin   : Nat
  weightMax   : Nat
  diameterMin : Nat
  diameterMax : Nat
  lengthMin   : Nat
  lengthMax   : Nat
  preferred   : Option BinId
  deriving DecidableEq, Repr, Inhabited

/-! ### The Merge Arbiter and the Conveyor Tracker -/

/-- The transfer pocket (R107). GRANTED carries the length in ms of the handoff timer, RELEASING that of the release timer. -/
inductive Pocket where
  | empty
  | granted (lane : Lane) (length : Nat)
  | loaded (content : ContainerRecord)
  | foreign
  | releasing (length : Nat)
  | fault
  deriving DecidableEq, Repr, Inhabited

/-- The conveyor (R121) with the lengths of its running timers: start and stall in ms, run-out in s. -/
inductive Conveyor where
  | stopped
  | starting (startLength : Nat)
  | running (stallLength : Nat)
  | runOut (stallLength runOutLength : Nat)
  | halted
  | fault
  deriving DecidableEq, Repr, Inhabited

/-- Where a token's object came from (R128). -/
inductive Origin where
  | lane (l : Lane)
  | foreign
  deriving DecidableEq, Repr, Inhabited

/-- A token of the Slot Ring (R128). Its status is ROUTED when a destination is present and STRAY when it is absent. -/
structure Token where
  origin      : Origin
  seq         : Option Nat
  cls         : Option ClassId
  material    : Option Material
  destination : Option BinId
  deriving DecidableEq, Repr, Inhabited

/-- The six flow counters (R141). -/
structure FlowCounters where
  handedOff : BitVec 32
  foreign   : BitVec 32
  delivered : BitVec 32
  caught    : BitVec 32
  missing   : BitVec 32
  phantom   : BitVec 32
  deriving DecidableEq, Repr, Inhabited

/-! ### The Bin Manager -/

/-- The nine bin states (R147), in the order of 11.2. -/
inductive BinState where
  | unconfigured | absent | powering | opened | compactPending | compacting | full | service | fault
  deriving DecidableEq, Repr, Inhabited

/-- The bin fault causes (R145). -/
inductive BinFault where
  | notReady | compactTimeout
  deriving DecidableEq, Repr, Inhabited

/-- The settled seating of a module (R148). -/
inductive Seating where
  | unseated | partially | seated
  deriving DecidableEq, Repr, Inhabited

/-- The raw condition of the two detect contacts (R148). -/
inductive Contacts where
  | neither | one | both
  deriving DecidableEq, Repr, Inhabited

/-- An entry of the Bin Table (R145), with the bin's seating monitor (R148), its settled lines (R150, R157), and the items the
Conveyor Tracker keeps for the bin: settled entry beam (R135), confirmation window (R133) and diverter output (R134).
`position` is 0 until the bin is configured. -/
structure BinUnit where
  position    : Position
  materials   : MaterialSet
  capacity    : Nat
  nearFull    : Nat
  interval    : Nat
  state       : BinState
  faultCause  : Option BinFault
  fill        : Nat
  reserved    : Nat
  strayIns    : Nat
  fillHeld    : Bool
  removalFill : Option Nat
  seating     : Seating
  contacts    : Contacts
  debouncing  : Bool
  ready       : Bool
  done        : Bool
  entryBeam   : Bool
  window      : Bool
  diverter    : Bool
  deriving DecidableEq, Repr, Inhabited

/-! ### Reports -/

/-- The snapshot of a CONTAINER report (R94). -/
structure ContainerReport where
  lane        : Lane
  seq         : Nat
  code        : Option Code
  cls         : Option ClassId
  weight      : Option Nat
  diameter    : Option Nat
  length      : Option Nat
  gain        : Option Gain
  verdict     : Verdict
  destination : Option BinId
  deriving DecidableEq, Repr, Inhabited

/-- The contents of a VOUCHER report (R175). -/
structure VoucherReport where
  lane       : Lane
  number     : Nat
  cause      : Option CloseCause
  lines      : List SessionLine
  itemCount  : Nat
  valueTotal : Nat
  rejected   : Nat
  deriving DecidableEq, Repr, Inhabited

/-- The snapshot of a LANE report (R5). -/
structure LaneReport where
  lane          : Lane
  state         : LaneState
  faultCause    : Option LaneFault
  holds         : HoldSet
  closePending  : Bool
  lastWithdrawn : Nat
  deriving DecidableEq, Repr, Inhabited

/-- The events a BIN report names (R163). -/
inductive BinEvent where
  | state | nearFull | removal | partially | strayIn | config
  deriving DecidableEq, Repr, Inhabited

/-- The snapshot of a BIN report (R163). -/
structure BinReport where
  bin         : BinId
  event       : BinEvent
  state       : BinState
  faultCause  : Option BinFault
  fill        : Nat
  reserved    : Nat
  nearFull    : Bool
  strayIns    : Nat
  seating     : Seating
  removalFill : Option Nat
  deriving DecidableEq, Repr, Inhabited

/-- The cause of a STRAY turn (R137). -/
inductive StrayCause where
  | unconfirmed | notDiverted | noReroute
  deriving DecidableEq, Repr, Inhabited

/-- What a RING report tells (R142): a STRAY turn with the token, where it stood, the bin it named and why, or a reconciliation. -/
inductive RingEvent where
  | stray (token : Token) (position : Position) (bin : BinId) (cause : StrayCause)
  | caught (token : Token)
  | missing (token : Token)
  | phantom
  deriving DecidableEq, Repr, Inhabited

/-- The snapshot of a CONVEYOR report (R143): conveyor and pocket states carry their fault causes. -/
structure ConveyorReport where
  conveyor   : Conveyor
  pocket     : Pocket
  catchCount : Nat
  trayFull   : Bool
  deriving DecidableEq, Repr, Inhabited

/-- The operation of a CALIBRATION report (R62). -/
inductive CalOperation where
  | zero | span | autoZero
  deriving DecidableEq, Repr, Inhabited

/-- The outcome of a CALIBRATION report (R62). -/
inductive CalOutcome where
  | done | scaleRange | unstable | spanRange | zeroDrift
  deriving DecidableEq, Repr, Inhabited

/-- The contents of a CALIBRATION report (R62). -/
structure CalReport where
  lane      : Lane
  operation : CalOperation
  outcome   : CalOutcome
  zero      : Int
  span      : Nat
  drift     : Option Nat
  deriving DecidableEq, Repr, Inhabited

/-- The events a LINK report names (R193). -/
inductive LinkEvent where
  | frameError | overrun | linkLost | linkRestored
  deriving DecidableEq, Repr, Inhabited

/-- The link state (R194). `expiring` is the model's own: NORMAL, with the supervision timer's expiry coming together with the good frame
that the next row completes, and taken first (note 26). -/
inductive LinkState where
  | normal | lost | expiring
  deriving DecidableEq, Repr, Inhabited

/-- The snapshot of a LINK report (R193). -/
structure LinkReport where
  event       : LinkEvent
  link        : LinkState
  frameErrors : Nat
  overruns    : Nat
  deriving DecidableEq, Repr, Inhabited

/-- A report, of one of the nine kinds (R188). -/
inductive Report where
  | container (r : ContainerReport)
  | codeQuery (lane : Lane) (seq : Nat) (code : Code)
  | voucher (r : VoucherReport)
  | lane (r : LaneReport)
  | bin (r : BinReport)
  | ring (event : RingEvent) (catchCount : Nat)
  | conveyor (r : ConveyorReport)
  | calibration (r : CalReport)
  | link (r : LinkReport)
  deriving DecidableEq, Repr, Inhabited

/-- A report made at the event in progress and not yet offered. CONTAINER, RING and CALIBRATION reports are whole when made (but
for the catch count of a RING report, R142); the others take their snapshot when they are offered, after all of the event's changes (R5, R163). -/
inductive Made where
  | whole (r : Report)
  | codeQuery (lane : Lane)
  | voucher (lane : Lane)
  | lane (lane : Lane)
  | bin (bin : BinId) (event : BinEvent)
  | conveyor
  | link (event : LinkEvent)
  deriving DecidableEq, Repr, Inhabited

/-! ### The Link Port -/

/-- The phases of the receiver (R181). -/
inductive RxPhase where
  | hunt | len | kind | tag | body | check
  deriving DecidableEq, Repr, Inhabited

/-- The receiver: its phase and the bytes kept of the frame in progress, from its SYNC onward (R181). -/
structure Receiver where
  phase : RxPhase
  kept  : List Byte
  deriving DecidableEq, Repr, Inhabited

/-- The Link Port and the Command Processor's intake (R181 to R195). `transmitter` is the frame being sent, none when idle.
`supervision` is the length in s of the running supervision timer. `heldOut` stands in the order of holding out (R192). -/
structure LinkPort where
  receiver    : Receiver
  intake      : List Frame
  replySlot   : Option Frame
  transmitter : Option Frame
  queue       : List Report
  heldOut     : List Report
  lost        : Bool
  frameErrors : Nat
  overruns    : Nat
  state       : LinkState
  supervision : Option Nat
  deriving DecidableEq, Repr, Inhabited

/-- The corner configuration (R196), with the units of that table. -/
structure CornerConfig where
  queryTimeout      : Nat
  supervisionTime   : Nat
  startTime         : Nat
  stallTime         : Nat
  runOutTime        : Nat
  pocketReleaseTime : Nat
  catchCapacity     : Nat
  deriving DecidableEq, Repr, Inhabited

/-! ### The whole part -/

/-- The state of the part. `outbox`, `choices`, `draws` and `pending` are the model's own: the reports made at the event in
progress, the supplied resolutions of open choices, how many choices were drawn beyond them, and the rows waiting. -/
structure State where
  resetAsserted : Bool
  lanes         : Vector LaneUnit 4
  windows       : Vector CodeWindow 64
  classes       : Vector ClassProfile 16
  requests      : List Lane
  pocket        : Pocket
  pocketBeam    : Bool
  conveyor      : Conveyor
  ring          : Vector (Option Token) 32
  endFlag       : Bool
  endBeam       : Bool
  catchCount    : Nat
  counters      : FlowCounters
  bins          : Vector BinUnit 6
  corner        : CornerConfig
  link          : LinkPort
  outbox        : List Made
  choices       : List Nat
  draws         : Nat
  pending       : List Instr
  deriving DecidableEq, Repr

/-- Why a step could stop the part: nothing does. The manual describes no such stop (INVENTORY.md, Faults), so there is no
constructor, and "no row faults" holds by type. Safe. -/
inductive Fault where
  deriving DecidableEq, Repr

/-- Why a row could be refused. Safe. -/
inductive Refusal where
  /-- Raised by `exec` for a row that has no meaning yet. No row is left without one. Safe. -/
  | notModelled (mnemonic : String)
  deriving DecidableEq, Repr

/-! ### Pin reset -/

/-- The empty hold set (R27). -/
def HoldSet.none : HoldSet := ⟨false, false, false, false⟩

/-- No material (R164). -/
def MaterialSet.none : MaterialSet := ⟨false, false, false, false⟩

/-- The defaults of R26. -/
def LaneConfig.defaults : LaneConfig where
  beltPitch := 2
  stopDistance := 60
  maxLength := 360
  settleCount := 8
  stabilityLimit := 64
  attempts := 3
  autoZeroInterval := 30
  zeroBand := 20
  queryEnabled := false
  itemCap := 300
  valueCap := 50000
  standbyTime := 15
  dormantTime := 120
  sessionIdleTime := 90
  handoffTime := 1500
  returnTravel := 400

/-- A beam or line settled clear (or released) with no reading pending (R8, R12). -/
def Debounced.clear : Debounced := ⟨false, false⟩

/-- The Curtain Scanner after pin reset, RESTART, and at entry to CLOSED and to READY from CLOSED (R40). That the pulse count, largest
extent and stop count are 0 at each of them is the model's (note 9). -/
def Curtain.reset : Curtain := ⟨0, 0, 0, .none, 0, 0, 0⟩

/-- The Code Reader Port after pin reset and RESTART (R47). -/
def ReaderPort.reset : ReaderPort := ⟨[], false, false⟩

/-- The Weigher with no run (R49, R67). -/
def Weigher.idle : Weigher := ⟨.none, .idle, .g16, 0, false, [], 0, Option.none⟩

/-- A session in NONE that carries a number (R165, R180). -/
def Session.none (number : Nat) : Session := ⟨.none, number, Option.none, [], 0, 0, 0, false⟩

/-- A lane after pin reset (R27, R40, R47, R67, R102, R180). -/
def LaneUnit.reset : LaneUnit where
  state := .closed
  faultCause := Option.none
  holds := HoldSet.none
  closePending := false
  coldStart := false
  calRunning := false
  nextSeq := 1
  lastWithdrawn := 0
  config := LaneConfig.defaults
  zero := 0
  span := 0
  record := Option.none
  belt := .off
  shutter := false
  mouthOpen := false
  returnTravel := 0
  mouth := Debounced.clear
  button := Debounced.clear
  curtain := Curtain.reset
  reader := ReaderPort.reset
  weigher := Weigher.idle
  converterOn := true
  query := .idle
  session := Session.none 1

/-- A Code Window Table entry after pin reset (R68). -/
def CodeWindow.reset : CodeWindow := ⟨false, .includes, 0, 0, 0, 0⟩

/-- A Class Profile Table entry after pin reset (R75). -/
def ClassProfile.reset : ClassProfile := ⟨false, .plastic, 0, 0, 0, 0, 0, 0, 0, Option.none⟩

/-- A bin after pin reset (R164). -/
def BinUnit.reset : BinUnit where
  position := 0
  materials := MaterialSet.none
  capacity := 0
  nearFull := 0
  interval := 0
  state := .unconfigured
  faultCause := Option.none
  fill := 0
  reserved := 0
  strayIns := 0
  fillHeld := false
  removalFill := Option.none
  seating := .unseated
  contacts := .neither
  debouncing := true
  ready := false
  done := false
  entryBeam := false
  window := false
  diverter := false

/-- The flow counters after pin reset and RESTART (R144). -/
def FlowCounters.zero : FlowCounters := ⟨0, 0, 0, 0, 0, 0⟩

/-- The defaults of R196. -/
def CornerConfig.defaults : CornerConfig where
  queryTimeout := 2000
  supervisionTime := 10
  startTime := 1000
  stallTime := 1500
  runOutTime := 10
  pocketReleaseTime := 400
  catchCapacity := 60

/-- The Link Port after pin reset (R200). -/
def LinkPort.reset : LinkPort where
  receiver := ⟨.hunt, []⟩
  intake := []
  replySlot := Option.none
  transmitter := Option.none
  queue := []
  heldOut := []
  lost := false
  frameErrors := 0
  overruns := 0
  state := .normal
  supervision := some 10

/-- The part right after pin reset: every block as its pin-reset table gives (R27, R40, R47, R67, R83, R102, R120, R144, R164,
R180, R200). -/
def State.reset : State where
  resetAsserted := false
  lanes := Vector.replicate 4 LaneUnit.reset
  windows := Vector.replicate 64 CodeWindow.reset
  classes := Vector.replicate 16 ClassProfile.reset
  requests := []
  pocket := .empty
  pocketBeam := false
  conveyor := .stopped
  ring := Vector.replicate 32 Option.none
  endFlag := false
  endBeam := false
  catchCount := 0
  counters := FlowCounters.zero
  bins := Vector.replicate 6 BinUnit.reset
  corner := CornerConfig.defaults
  link := LinkPort.reset
  outbox := []
  choices := []
  draws := 0
  pending := []

end Sys2Proof.Machine
end

