-- ==== Sys2Proof/Machine/Flags.lean ====
section
/-! DEFINITION. What is computed from the state: machinery outputs, running timers, and the conditions that the rules read
("work is present", "the tray is full", "eligible", "the conditions of the grant"). -/

namespace Sys2Proof.Machine

/-! ### Access by number -/

/-- The Lane Unit of a lane. -/
def State.lane (s : State) (l : Lane) : LaneUnit := s.lanes[l]

/-- The Bin Table entry of a bin. -/
def State.bin (s : State) (b : BinId) : BinUnit := s.bins[b]

/-- The token at a ring position, if any (R128). -/
def State.tokenAt (s : State) (p : Position) : Option Token := s.ring[p]

/-- A Class Profile Table entry. -/
def State.classAt (s : State) (c : ClassId) : ClassProfile := s.classes[c]

/-! ### The lane -/

/-- The hold set is empty (R9). -/
def HoldSet.isEmpty (h : HoldSet) : Bool := !h.link && !h.conveyor && !h.sessionClosing && !h.closePending

/-- A lane is open in every state other than CLOSED (R1). -/
def LaneState.isOpen (s : LaneState) : Bool :=
  match s with
  | .closed => false
  | _ => true

/-- READY, STANDBY or DORMANT, the open idle states (R1). -/
def LaneState.isIdle (s : LaneState) : Bool :=
  match s with
  | .ready | .standby | .dormant => true
  | _ => false

/-- The busy states (R1). -/
def LaneState.isBusy (s : LaneState) : Bool :=
  match s with
  | .admitting | .weigh | .query | .hold | .handoff | .returning => true
  | _ => false

/-- A lane is open in every state other than CLOSED (R1). -/
def LaneUnit.isOpen (u : LaneUnit) : Bool := u.state.isOpen

/-- The verdict of the lane's record, if it holds one with a verdict. -/
def LaneUnit.verdict (u : LaneUnit) : Option Verdict := u.record.bind (·.verdict)

/-- The lane holds a record whose verdict is ACCEPT (R171). -/
def LaneUnit.holdsAccept (u : LaneUnit) : Bool := u.verdict == some .accept

/-- The reading zone is open while the lane holds a record whose verdict is absent (R44). -/
def LaneUnit.zoneOpen (u : LaneUnit) : Bool :=
  match u.record with
  | some r => r.verdict.isNone
  | none => false

/-- The shutter command (R2): open in three cases, shut in every other. -/
def LaneUnit.shutterCommand (u : LaneUnit) : Bool :=
  match u.state with
  | .ready | .standby | .dormant => u.holds.isEmpty && !u.calRunning
  | .admitting => u.mouthOpen
  | .returning => true
  | _ => false

/-- The lamp patterns (R3). -/
inductive Lamp where
  | faultPattern | off | flashing | dim | steady
  deriving DecidableEq, Repr, Inhabited

/-- The lamp: the first pattern of R3's list whose condition holds. -/
def LaneUnit.lamp (u : LaneUnit) : Lamp :=
  match u.state with
  | .fault => .faultPattern
  | .closed => .off
  | .returning => .flashing
  | .ready => if u.holds.isEmpty then .steady else .flashing
  | .standby | .dormant => if u.holds.isEmpty then .dim else .flashing
  | .admitting | .weigh | .query | .hold | .handoff => .steady

/-- The belt is powered in READY, the busy states and FAULT (R4). -/
def LaneUnit.beltPowered (u : LaneUnit) : Bool :=
  match u.state with
  | .closed | .standby | .dormant => false
  | _ => true

/-- The scan period in ms, none when the curtain is not scanned (R29). -/
def LaneUnit.scanPeriod (u : LaneUnit) : Option Nat :=
  match u.state with
  | .closed => none
  | .dormant => some Config.dormantScanPeriod
  | _ => some Config.scanPeriod

/-- The admit timer (R15, R35): runs in ADMIT until the first blocked curtain scan. -/
def LaneUnit.admitTimer (u : LaneUnit) : Option Nat :=
  if u.state = .admitting ∧ u.curtain.phase = .waiting then some Config.admitTime else none

/-- The belt stall timer (R4): runs while the belt is driven. -/
def LaneUnit.stallTimer (u : LaneUnit) : Option Nat :=
  if u.belt = .off then none else some Config.beltStallTime

/-- The standby timer, s (R23): runs in READY, held while calibration running is set. -/
def LaneUnit.standbyTimer (u : LaneUnit) : Option Nat :=
  if u.state = .ready ∧ u.calRunning = false then some u.config.standbyTime else none

/-- The dormant timer, s (R24): runs in STANDBY while the session is NONE and dormant_time is not 0. -/
def LaneUnit.dormantTimer (u : LaneUnit) : Option Nat :=
  if u.state = .standby ∧ u.session.state = .none ∧ u.config.dormantTime ≠ 0 then some u.config.dormantTime else none

/-- The session idle timer, s (R25): advances while the lane is open and holds no record. -/
def LaneUnit.sessionIdleTimer (u : LaneUnit) : Option Nat :=
  if u.isOpen = true ∧ u.record = none then some u.config.sessionIdleTime else none

/-- The auto-zero timer, s (R63): runs only while all five conditions hold. -/
def LaneUnit.autoZeroTimer (u : LaneUnit) : Option Nat :=
  if u.config.autoZeroInterval ≠ 0 ∧ u.state = .ready ∧ u.calRunning = false ∧ u.weigher.run = .none ∧ u.mouth.settled = false
  then some u.config.autoZeroInterval else none

/-- The query timer, ms (R95): runs in OPEN. -/
def LaneUnit.queryTimer (u : LaneUnit) : Option Nat :=
  match u.query with
  | .opened _ _ length => some length
  | _ => none

/-- A READY lane admits when its mouth is settled blocked, its hold set is empty and calibration running is clear (R9). -/
def LaneUnit.admits (u : LaneUnit) : Bool :=
  u.state == .ready && u.mouth.settled && u.holds.isEmpty && !u.calRunning

/-- A STANDBY or DORMANT lane with its mouth settled blocked and its hold set empty wakes (R24, R9). -/
def LaneUnit.wakesUnheld (u : LaneUnit) : Bool :=
  (u.state == .standby || u.state == .dormant) && u.mouth.settled && u.holds.isEmpty

/-- A lane with close-pending enters CLOSED when it holds no record, its session is NONE and calibration running is clear (R14). -/
def LaneUnit.closes (u : LaneUnit) : Bool :=
  u.isOpen && u.closePending && u.record.isNone && u.session.state == .none && !u.calRunning

/-- A CLOSING session whose lane holds no record with ACCEPT offers its voucher, unless it is already waiting (R171, R172). -/
def LaneUnit.voucherDue (u : LaneUnit) : Bool :=
  u.session.state == .closing && !u.session.voucherWaiting && !u.holdsAccept

/-! ### The bins -/

/-- The material belongs to the set. -/
def MaterialSet.has (m : MaterialSet) (x : Material) : Bool :=
  match x with
  | .plastic => m.plastic
  | .metal => m.metal
  | .glass => m.glass
  | .carton => m.carton

/-- A bin is configured from its first SET_BIN until pin reset (R145). -/
def BinUnit.configured (u : BinUnit) : Bool := u.state != .unconfigured

/-- The power switch (R147). -/
def BinUnit.power (u : BinUnit) : Bool :=
  match u.state with
  | .powering | .opened | .compactPending | .compacting | .full => true
  | .fault => u.seating == .seated
  | .unconfigured | .absent | .service => false

/-- The compactor start output (R147). -/
def BinUnit.compactorStart (u : BinUnit) : Bool := u.state == .compacting

/-- The power-up timer, ms (R150). -/
def BinUnit.powerUpTimer (u : BinUnit) : Option Nat := if u.state = .powering then some Config.powerUpTime else none

/-- The compaction timer, s (R156). -/
def BinUnit.compactionTimer (u : BinUnit) : Option Nat := if u.state = .compacting then some Config.compactionTime else none

/-- OPEN or COMPACT_PENDING, where a diverter may fire and reservations stand (R147, R152). -/
def BinUnit.delivers (u : BinUnit) : Bool := u.state == .opened || u.state == .compactPending

/-- Eligible for a material: OPEN, the material in its set, and fill plus reserved below capacity (R153). -/
def BinUnit.eligible (u : BinUnit) (m : Material) : Bool :=
  u.state == .opened && u.materials.has m && decide (u.fill + u.reserved < u.capacity)

/-- The free room of a bin (R153). -/
def BinUnit.freeRoom (u : BinUnit) : Nat := u.capacity - u.fill - u.reserved

/-- A COMPACT_PENDING bin whose reserved is 0 enters COMPACTING (R156). -/
def BinUnit.compactionDue (u : BinUnit) : Bool := u.state == .compactPending && u.reserved == 0

/-- The state a bin in use takes from its fill: FULL at capacity, OPEN otherwise (R150, R162). -/
def BinUnit.openOrFull (u : BinUnit) : BinState := if u.fill = u.capacity then .full else .opened

/-! ### The corner -/

/-- The catch tray is full while the catch count is at or above catch_capacity (R139). -/
def State.trayFull (s : State) : Bool := decide (s.corner.catchCapacity ≤ s.catchCount)

/-- The conveyor's motor output (R121). -/
def Conveyor.motor (c : Conveyor) : Bool :=
  match c with
  | .starting _ | .running _ | .runOut _ _ => true
  | .stopped | .halted | .fault => false

/-- FAULT or HALTED (R108, R127). -/
def Conveyor.barsGrants (c : Conveyor) : Bool := c == .fault || c == .halted

/-- RUNNING or RUN_OUT: releases and diverting take place (R115, R133). -/
def Conveyor.carries (c : Conveyor) : Bool :=
  match c with
  | .running _ | .runOut _ _ => true
  | _ => false

/-- The condition of the hold cause CONVEYOR (R10, R127). -/
def State.conveyorHeld (s : State) : Bool := s.conveyor.barsGrants || s.trayFull || s.pocket == .fault

/-- The pocket is GRANTED, LOADED, FOREIGN or RELEASING (R121). -/
def Pocket.isWork (p : Pocket) : Bool :=
  match p with
  | .empty | .fault => false
  | _ => true

/-- Work is present (R121). -/
def State.workPresent (s : State) : Bool :=
  !s.requests.isEmpty || s.pocket.isWork || s.ring.toList.any (·.isSome)

/-- The conditions of the grant (R108), the list's head apart. -/
def State.mayGrant (s : State) : Bool :=
  s.pocket == .empty && !s.pocketBeam && !s.conveyor.barsGrants && !s.trayFull

/-- The Report Queue has room (R188). -/
def LinkPort.hasRoom (k : LinkPort) : Bool := decide (k.queue.length < Config.queueReports)

/-- The inter-byte timer, ms, which runs in any phase other than HUNT (R183). -/
def LinkPort.interByteTimer (k : LinkPort) : Option Nat :=
  if k.receiver.phase = .hunt then none else some Config.interByteTime

/-- What forbids a RESTART without force (R198). -/
def State.restartBarred (s : State) : Bool :=
  allLanes.any (fun l => (s.lane l).session.state != .none || (s.lane l).record.isSome) ||
  s.pocket != .empty || s.ring.toList.any (·.isSome)

/-- A class of the Class Profile Table is enabled (R12, R79). -/
def State.anyClassEnabled (s : State) : Bool := s.classes.toList.any (·.enabled)

/-! ### Machinery outputs: at rest while RESET is asserted (R207), else as the blocks drive them -/

/-- A lane's belt drive (R4, R207). -/
def State.beltOut (s : State) (l : Lane) : BeltDrive := if s.resetAsserted then .off else (s.lane l).belt

/-- A lane's belt power (R4, R207). -/
def State.beltPowerOut (s : State) (l : Lane) : Bool := !s.resetAsserted && (s.lane l).beltPowered

/-- A lane's shutter, true when open (R2, R207). In RESET it is shut whatever the mouth beam was settled as: that R2's deferral does not
hold there is the model's choice (note 25). -/
def State.shutterOut (s : State) (l : Lane) : Bool := !s.resetAsserted && (s.lane l).shutter

/-- A lane's lamp (R3, R207). -/
def State.lampOut (s : State) (l : Lane) : Lamp := if s.resetAsserted then .off else (s.lane l).lamp

/-- The scan period of a lane's curtain, none with its emitters dark (R29, R207). -/
def State.scanOut (s : State) (l : Lane) : Option Nat := if s.resetAsserted then none else (s.lane l).scanPeriod

/-- A lane's converter power (R48, R207). -/
def State.converterOut (s : State) (l : Lane) : Bool := s.resetAsserted || (s.lane l).converterOn

/-- A lane's converter gain (R48, R207). -/
def State.gainOut (s : State) (l : Lane) : Gain := if s.resetAsserted then .g16 else (s.lane l).weigher.gain

/-- The conveyor motor (R121, R207). -/
def State.motorOut (s : State) : Bool := !s.resetAsserted && s.conveyor.motor

/-- A bin's power switch (R147, R207). -/
def State.binPowerOut (s : State) (b : BinId) : Bool := !s.resetAsserted && (s.bin b).power

/-- A bin's compactor start (R147, R207). -/
def State.compactorOut (s : State) (b : BinId) : Bool := !s.resetAsserted && (s.bin b).compactorStart

/-- A bin's diverter (R134, R207). -/
def State.diverterOut (s : State) (b : BinId) : Bool := !s.resetAsserted && (s.bin b).diverter

end Sys2Proof.Machine
end

