-- ==== Sys2Proof/Machine/Ops.lean ====
section
/-! DEFINITION. The named operations over the state: updates by number, making and offering reports (R188 to R193), hold causes,
reservations. -/

namespace Sys2Proof.Machine

/-! ### Updates by number -/

def State.setLane (s : State) (l : Lane) (u : LaneUnit) : State := { s with lanes := s.lanes.set l u }

def State.modLane (s : State) (l : Lane) (f : LaneUnit → LaneUnit) : State := s.setLane l (f (s.lane l))

def State.setBin (s : State) (b : BinId) (u : BinUnit) : State := { s with bins := s.bins.set b u }

def State.modBin (s : State) (b : BinId) (f : BinUnit → BinUnit) : State := s.setBin b (f (s.bin b))

def State.setToken (s : State) (p : Position) (t : Option Token) : State := { s with ring := s.ring.set p t }

/-- The record of a lane changed, where it holds one. -/
def State.modRecord (s : State) (l : Lane) (f : ContainerRecord → ContainerRecord) : State :=
  s.modLane l (fun u => { u with record := u.record.map f })

/-! ### Open choices -/

/-- The next resolution of an open choice: supplied, or else uninterpreted (note 1). -/
def State.draw (s : State) : Nat × State :=
  match s.choices with
  | c :: rest => (c, { s with choices := rest })
  | [] => (Config.freeChoice s.draws, { s with draws := s.draws + 1 })

/-- Put x at place k of a list, counting from 0; at the end when the list is shorter. -/
def insertAt {α : Type} : Nat → α → List α → List α
  | 0, x, l => x :: l
  | _ + 1, x, [] => [x]
  | k + 1, x, y :: l => y :: insertAt k x l

/-- The k-th arrangement of a list: each order is some k's, and a list of at most one entry has one. -/
def arrange {α : Type} : Nat → List α → List α
  | _, [] => []
  | _, [x] => [x]
  | k, x :: y :: l => insertAt (k % (l.length + 2)) x (arrange (k / (l.length + 2)) (y :: l))

/-- A list in a freely chosen order; one of at most one entry draws nothing. -/
def State.arranged {α : Type} (s : State) (l : List α) : List α × State :=
  if l.length ≤ 1 then (l, s) else (arrange s.draw.1 l, s.draw.2)

/-! ### Making reports -/

/-- Add an entry to the outbox unless it is there already: several changes of one subject at one event make one report (R5). -/
def State.make (s : State) (m : Made) : State :=
  if m ∈ s.outbox then s else { s with outbox := s.outbox ++ [m] }

/-- A CONTAINER, RING or CALIBRATION report, whole at this event (R94, R142, R62); two equal ones are two reports. -/
def State.makeWhole (s : State) (r : Report) : State := { s with outbox := s.outbox ++ [.whole r] }

/-- The lane's state, hold set or close-pending changed, or a withdrawal (R5). -/
def State.noteLane (s : State) (l : Lane) : State := s.make (.lane l)

/-- A change that makes a CONVEYOR report (R143). -/
def State.noteConveyor (s : State) : State := s.make .conveyor

/-- The BIN event named in the outbox for a bin, if any. -/
def madeBinEvent (b : BinId) (l : List Made) : Option BinEvent :=
  l.findSome? (fun m => match m with
    | .bin b' e => if b' = b then some e else none
    | _ => none)

/-- The outbox with the BIN event of a bin renamed. -/
def renameBinEvent (b : BinId) (e : BinEvent) (l : List Made) : List Made :=
  l.map (fun m => match m with
    | .bin b' e' => if b' = b then .bin b' e else .bin b' e'
    | m => m)

/-- A change that makes a BIN report (R163). One event makes at most one for a bin. A removal carries REMOVAL; which of two other
names the one report carries is open (note 5). -/
def State.noteBin (s : State) (b : BinId) (e : BinEvent) : State :=
  match madeBinEvent b s.outbox with
  | none => { s with outbox := s.outbox ++ [.bin b e] }
  | some old =>
    if old = e ∨ old = .removal then s
    else if e = .removal then { s with outbox := renameBinEvent b e s.outbox }
    else { s.draw.2 with outbox := renameBinEvent b (if s.draw.1 % 2 = 0 then old else e) s.outbox }

/-- The LINK event named in the outbox, if any. -/
def madeLinkEvent (l : List Made) : Option LinkEvent :=
  l.findSome? (fun m => match m with
    | .link e => some e
    | _ => none)

/-- The outbox with the LINK event renamed. -/
def renameLinkEvent (e : LinkEvent) (l : List Made) : List Made :=
  l.map (fun m => match m with
    | .link _ => .link e
    | m => m)

/-- A LINK report (R193). R194 and R195 order the loss before the restoration and the restoration before the frame's OVERRUN; which of
two other names the one report of an event carries is open (note 6). -/
def State.noteLink (s : State) (e : LinkEvent) : State :=
  match madeLinkEvent s.outbox with
  | none => { s with outbox := s.outbox ++ [.link e] }
  | some old =>
    if old = e then s
    else if old = .linkLost ∧ e = .linkRestored ∨ old = .linkRestored ∧ e = .overrun then { s with outbox := renameLinkEvent e s.outbox }
    else { s.draw.2 with outbox := renameLinkEvent (if s.draw.1 % 2 = 0 then old else e) s.outbox }

/-! ### Snapshots -/

/-- The snapshot of a LANE report (R5). -/
def State.laneReport (s : State) (l : Lane) : LaneReport :=
  let u := s.lane l
  ⟨l, u.state, u.faultCause, u.holds, u.closePending, u.lastWithdrawn⟩

/-- The snapshot of a BIN report (R163). -/
def State.binReport (s : State) (b : BinId) (e : BinEvent) : BinReport :=
  let u := s.bin b
  ⟨b, e, u.state, u.faultCause, u.fill, u.reserved, decide (u.nearFull ≤ u.fill), u.strayIns, u.seating, u.removalFill⟩

/-- The snapshot of a CONVEYOR report (R143). -/
def State.conveyorReport (s : State) : ConveyorReport := ⟨s.conveyor, s.pocket, s.catchCount, s.trayFull⟩

/-- The snapshot of a LINK report (R193). -/
def State.linkReport (s : State) (e : LinkEvent) : LinkReport :=
  ⟨e, s.link.state, s.link.frameErrors, s.link.overruns⟩

/-- The contents of a lane's VOUCHER report, taken from its session as it stands (R173, R175). -/
def State.voucherReport (s : State) (l : Lane) : VoucherReport :=
  let t := (s.lane l).session
  ⟨l, t.number, t.cause, t.lines, t.itemCount, t.valueTotal, t.rejected⟩

/-- The seq and code of a lane's query context (R95). -/
def QueryContext.subject (q : QueryContext) : Option (Nat × Code) :=
  match q with
  | .idle => none
  | .waitingRoom seq code => some (seq, code)
  | .opened seq code _ => some (seq, code)

/-- The CODE_QUERY report of a lane's query (R96). -/
def State.codeQueryReport (s : State) (l : Lane) : Report :=
  match (s.lane l).query.subject with
  | some (seq, code) => .codeQuery l seq code
  | none => .codeQuery l 0 default

/-- A RING report carries the catch count after the event (R142); the other whole reports stand as made. -/
def Report.withCatchCount (r : Report) (n : Nat) : Report :=
  match r with
  | .ring e _ => .ring e n
  | r => r

/-- The report an outbox entry stands for, with its snapshot taken now. -/
def State.reportOf (s : State) (m : Made) : Report :=
  match m with
  | .whole r => r.withCatchCount s.catchCount
  | .codeQuery l => s.codeQueryReport l
  | .voucher l => .voucher (s.voucherReport l)
  | .lane l => .lane (s.laneReport l)
  | .bin b e => .bin (s.binReport b e)
  | .conveyor => .conveyor s.conveyorReport
  | .link e => .link (s.linkReport e)

/-! ### The Report Queue -/

/-- The subject of a coalesced report (R188). -/
inductive Subject where
  | lane (l : Lane)
  | bin (b : BinId)
  | calibration (l : Lane)
  | conveyor
  | link
  deriving DecidableEq, Repr

/-- The treatments of R188. -/
inductive Treatment where
  | droppable
  | waiting
  | coalesced (subject : Subject)
  deriving DecidableEq, Repr

/-- The treatment of each report kind (R188). -/
def Report.treatment (r : Report) : Treatment :=
  match r with
  | .container _ => .droppable
  | .ring _ _ => .droppable
  | .codeQuery _ _ _ => .waiting
  | .voucher _ => .waiting
  | .lane r => .coalesced (.lane r.lane)
  | .bin r => .coalesced (.bin r.bin)
  | .calibration r => .coalesced (.calibration r.lane)
  | .conveyor _ => .coalesced .conveyor
  | .link _ => .coalesced .link

/-- The report stands for this subject. -/
def Report.isOf (x : Subject) (r : Report) : Bool := r.treatment == .coalesced x

/-- Replace in its place the report of a subject (R189). -/
def replaceSubject (x : Subject) (r : Report) (l : List Report) : List Report :=
  l.map (fun q => if q.isOf x then r else q)

/-- A report enters the queue at the tail (R188). -/
def LinkPort.enqueue (k : LinkPort) (r : Report) : LinkPort := { k with queue := k.queue ++ [r] }

/-- A report is held out, last in the order of holding out (R189, R191). -/
def LinkPort.holdOut (k : LinkPort) (r : Report) : LinkPort := { k with heldOut := k.heldOut ++ [r] }

/-- A report is offered to the Report Queue (R188 to R191). -/
def LinkPort.offer (k : LinkPort) (r : Report) : LinkPort :=
  match r.treatment with
  | .droppable => if k.hasRoom then k.enqueue r else { k with lost := true }
  | .waiting => if k.hasRoom then k.enqueue r else k.holdOut r
  | .coalesced x =>
    if k.queue.any (·.isOf x) then { k with queue := replaceSubject x r k.queue }
    else if k.heldOut.any (·.isOf x) then { k with heldOut := replaceSubject x r k.heldOut }
    else if k.hasRoom then k.enqueue r
    else k.holdOut r

/-- The held-out report is the CODE_QUERY of a lane. -/
def Report.isCodeQueryOf (l : Lane) (r : Report) : Bool :=
  match r with
  | .codeQuery l' _ _ => l' == l
  | _ => false

/-- The held-out report is the VOUCHER of a lane. -/
def Report.isVoucherOf (l : Lane) (r : Report) : Bool :=
  match r with
  | .voucher v => v.lane == l
  | _ => false

/-! ### Hold causes and the session's end -/

/-- Change a lane's hold set; a change makes a LANE report (R5). -/
def State.setHolds (s : State) (l : Lane) (h : HoldSet) : State :=
  if (s.lane l).holds = h then s else (s.modLane l (fun u => { u with holds := h })).noteLane l

/-- Change a lane's state; a change makes a LANE report (R5). -/
def State.setLaneState (s : State) (l : Lane) (t : LaneState) : State :=
  if (s.lane l).state = t then s else (s.modLane l (fun u => { u with state := t })).noteLane l

/-- Put or remove the cause LINK at every open lane (R10). -/
def State.setLinkHold (s : State) (v : Bool) : State :=
  allLanes.foldl (fun s l =>
    if (s.lane l).isOpen then s.setHolds l { (s.lane l).holds with link := v } else s) s

/-- The session's VOUCHER report has entered the queue (R173): the session becomes NONE with the next number, and SESSION_CLOSING
leaves the hold set. -/
def State.voucherQueued (s : State) (l : Lane) : State :=
  let s := s.modLane l (fun u => { u with session := Session.none (seqNext u.session.number) })
  s.setHolds l { (s.lane l).holds with sessionClosing := false }

/-- The lane's CODE_QUERY report has entered the queue: the context becomes OPEN and its timer starts with query_timeout as it
stands (R95, R96). -/
def State.codeQueryQueued (s : State) (l : Lane) : State :=
  s.modLane l (fun u => match u.query with
    | .waitingRoom seq code => { u with query := .opened seq code s.corner.queryTimeout }
    | _ => u)

/-- What the owner of a waiting report does when the offered entry entered the queue, that is, was not held out (R96, R173). -/
def State.ownerActs (s : State) (m : Made) : State :=
  match m with
  | .voucher l => if s.link.heldOut.any (·.isVoucherOf l) then s else s.voucherQueued l
  | .codeQuery l => if s.link.heldOut.any (·.isCodeQueryOf l) then s else s.codeQueryQueued l
  | _ => s

/-- Every report in the outbox is offered in turn, in an open order (R188, note 1), and the owners of waiting reports act. -/
def State.flush (s : State) : State :=
  let batch := s.outbox
  let (order, s) := s.arranged batch
  let link := order.foldl (fun k m => k.offer (s.reportOf m)) s.link
  batch.foldl State.ownerActs { s with link := link, outbox := [] }

/-- The entry is no CODE_QUERY and no VOUCHER: no owner waits for it. -/
def Made.plain (m : Made) : Bool :=
  match m with
  | .codeQuery _ | .voucher _ => false
  | _ => true

/-- The entry is a VOUCHER. -/
def Made.isVoucher (m : Made) : Bool :=
  match m with
  | .voucher _ => true
  | _ => false

/-- The k-th parting of a list of reports in those offered now and those put off: each set of the reports that may be put off is put off by
some k. -/
def partMade (may : Made → Bool) : Nat → List Made → List Made × List Made
  | _, [] => ([], [])
  | k, m :: l =>
    let (now, off) := partMade may (k / 2) l
    if may m && k % 2 == 1 then (now, m :: off) else (m :: now, off)

/-- Some of the reports made are offered, and the others wait for those that the event still makes. -/
def State.offerPart (s : State) (now off : List Made) : State :=
  let s := { s with outbox := now }.flush
  { s with outbox := off ++ s.outbox.filter (fun m => !off.contains m) }

/-- A free parting of the reports made, in which those that may be put off can be. -/
def State.parted (s : State) (may : Made → Bool) : List Made × List Made := partMade may s.draw.1 s.outbox

/-- A freely chosen part of the reports made is offered, so that either may stand first (R188, note 24). -/
def State.offerParted (s : State) (may : Made → Bool) : State := s.draw.2.offerPart (s.parted may).1 (s.parted may).2

/-- The VOUCHERs made are offered, for their entries make more reports, and some of the others with them (R173, R188). -/
def State.offerVouchers (s : State) : State := s.offerParted Made.plain

/-- Any report, a VOUCHER not excepted. -/
def Made.any (_ : Made) : Bool := true

/-- Some of the reports made are offered, where acts of the same event are still to come that make more (R188). -/
def State.offerSome (s : State) : State := s.offerParted Made.any

/-- Withdraw a waiting report of a lane that was not sent (R191), whether held out or made at this very event. -/
def State.withdrawVoucher (s : State) (l : Lane) : State :=
  let s := s.modLane l (fun u => { u with session := { u.session with voucherWaiting := false } })
  { s with
    link := { s.link with heldOut := s.link.heldOut.filter (fun r => !r.isVoucherOf l) }
    outbox := s.outbox.filter (· ≠ .voucher l) }

/-- End a lane's query: the context becomes IDLE, its timer stops, and a CODE_QUERY still waiting for room is withdrawn (R97 to R100). -/
def State.endQuery (s : State) (l : Lane) : State :=
  let s := s.modLane l (fun u => { u with query := .idle })
  { s with
    link := { s.link with heldOut := s.link.heldOut.filter (fun r => !r.isCodeQueryOf l) }
    outbox := s.outbox.filter (· ≠ .codeQuery l) }

/-! ### Reservations -/

/-- Count a reservation on a bin (R152). -/
def State.reserve (s : State) (b : BinId) : State := s.modBin b (fun u => { u with reserved := u.reserved + 1 })

/-- Release the reservation on the bin a destination names, if it names one (R152). -/
def State.release (s : State) (d : Option BinId) : State :=
  match d with
  | some b => s.modBin b (fun u => { u with reserved := u.reserved - 1 })
  | none => s

/-- Of two candidates the one with the greater free room, the earlier of equals (R154). -/
def betterBin (s : State) (best : Option BinId) (b : BinId) : Option BinId :=
  match best with
  | none => some b
  | some a => if (s.bin a).freeRoom < (s.bin b).freeRoom then some b else some a

/-- The destination choice (R154): the preferred bin if eligible, else the eligible bin of greatest free room, lowest number first. -/
def State.chooseBin (s : State) (m : Material) (preferred : Option BinId) : Option BinId :=
  let byRoom := (allBins.filter (fun b => (s.bin b).eligible m)).foldl (betterBin s) none
  match preferred with
  | some p => if (s.bin p).eligible m then some p else byRoom
  | none => byRoom

/-- A lane leaves the Merge Request List; the entries behind it close up (R105). -/
def State.dropRequest (s : State) (l : Lane) : State := { s with requests := s.requests.filter (· ≠ l) }

/-- A lane joins the Merge Request List at the tail (R104). -/
def State.joinRequests (s : State) (l : Lane) : State := { s with requests := s.requests ++ [l] }

/-- The result byte of a reply (R186; 11.2, result). -/
def resultCode (r : Result) : Byte :=
  match r with
  | .ok => 0#8
  | .unknownKind => 1#8
  | .badLength => 2#8
  | .badValue => 3#8
  | .wrongState => 4#8
  | .notCalibrated => 5#8
  | .noClasses => 6#8
  | .laneBusy => 7#8
  | .binInUse => 8#8
  | .late => 9#8
  | .workPresent => 10#8

/-- The reply frame to a command of this KIND and TAG (R204). -/
def replyFrame (kind tag : Byte) (r : Result) (data : List Byte) : Frame := ⟨0x80#8, tag, kind :: resultCode r :: data⟩

/-- The reply to a taken command enters the reply slot (R186, R187). -/
def State.answerWith (s : State) (kind tag : Byte) (r : Result) (data : List Byte) : State :=
  { s with link := { s.link with replySlot := some (replyFrame kind tag r data) } }

/-- A reply without data. -/
def State.answer (s : State) (kind tag : Byte) (r : Result) : State := s.answerWith kind tag r []

end Sys2Proof.Machine
end

