-- ==== Sys2Proof/Machine/Layouts.lean ====
section
/-! DEFINITION. What the part writes on the host line: the enumerations and absence values of 11.2, the report bodies of R205,
the QUERY data of R206, and the frame the transmitter forms (R201). -/

namespace Sys2Proof.Machine

/-! ### Field encodings (11.2) -/

/-- A flag. -/
def flagByte (b : Bool) : Byte := if b then 1#8 else 0#8

/-- A u8 field. -/
def u8 (n : Nat) : List Byte := leBytes 1 n

/-- A u16 field, low byte first. -/
def u16 (n : Nat) : List Byte := leBytes 2 n

/-- A u32 field, low byte first. -/
def u32 (n : Nat) : List Byte := leBytes 4 n

/-- An optional u8: 0xFF when absent. -/
def u8Opt (n : Option Nat) : List Byte := u8 (n.getD 0xFF)

/-- An optional u16: 0xFFFF when absent. -/
def u16Opt (n : Option Nat) : List Byte := u16 (n.getD 0xFFFF)

/-- An optional u32: 0xFFFFFFFF when absent. -/
def u32Opt (n : Option Nat) : List Byte := u32 (n.getD 0xFFFFFFFF)

/-- An optional sequence number: 0 when absent. -/
def seqBytes (n : Option Nat) : List Byte := u16 (n.getD 0)

/-- An optional lane, bin or class: 0xFF when absent. -/
def numOpt {n : Nat} (x : Option (Fin n)) : List Byte := u8Opt (x.map (·.val))

/-- A code: length and u48 value, both 0 when absent. -/
def codeBytes (c : Option Code) : List Byte :=
  match c with
  | some c => u8 c.length ++ leBytes 6 c.value
  | none => u8 0 ++ leBytes 6 0

/-- Four or fewer flags from bit 0 up in one byte. -/
def bitByte (b0 b1 b2 b3 : Bool) : Byte := flagByte b0 + 2#8 * flagByte b1 + 4#8 * flagByte b2 + 8#8 * flagByte b3

/-- A material set. -/
def MaterialSet.byte (m : MaterialSet) : Byte := bitByte m.plastic m.metal m.glass m.carton

/-- A hold set. -/
def HoldSet.byte (h : HoldSet) : Byte := bitByte h.link h.conveyor h.sessionClosing h.closePending

def LaneState.code (s : LaneState) : Byte :=
  match s with
  | .closed => 0#8
  | .ready => 1#8
  | .standby => 2#8
  | .dormant => 3#8
  | .admitting => 4#8
  | .weigh => 5#8
  | .query => 6#8
  | .hold => 7#8
  | .handoff => 8#8
  | .returning => 9#8
  | .fault => 10#8

def LaneFault.code (f : Option LaneFault) : Byte :=
  match f with
  | none => 0#8
  | some .beltStall => 1#8
  | some .mouthStuck => 2#8
  | some .strayLight => 3#8
  | some .handoffTimeout => 4#8
  | some .returnLost => 5#8
  | some .scaleNegative => 6#8

def Material.code (m : Material) : Nat :=
  match m with
  | .plastic => 0
  | .metal => 1
  | .glass => 2
  | .carton => 3

def Reason.code (r : Reason) : Byte :=
  match r with
  | .double => 1#8
  | .long => 2#8
  | .overweight => 3#8
  | .unstable => 4#8
  | .conflict => 5#8
  | .badCheck => 6#8
  | .noCode => 7#8
  | .excluded => 8#8
  | .unknown => 9#8
  | .queryTimeout => 10#8
  | .classOff => 11#8
  | .underweight => 12#8
  | .shape => 13#8
  | .limit => 14#8
  | .noBin => 15#8
  | .cleared => 16#8

/-- Verdict: 0xFF none, in QUERY data only. -/
def Verdict.code (v : Option Verdict) : Byte :=
  match v with
  | some .accept => 0#8
  | some (.reject _) => 1#8
  | none => 0xFF#8

/-- Reason: 0 unless the verdict is REJECT. -/
def Verdict.reasonCode (v : Option Verdict) : Byte :=
  match v with
  | some (.reject r) => r.code
  | _ => 0#8

def BinState.code (s : BinState) : Byte :=
  match s with
  | .unconfigured => 0#8
  | .absent => 1#8
  | .powering => 2#8
  | .opened => 3#8
  | .compactPending => 4#8
  | .compacting => 5#8
  | .full => 6#8
  | .service => 7#8
  | .fault => 8#8

def BinFault.code (f : Option BinFault) : Byte :=
  match f with
  | none => 0#8
  | some .notReady => 1#8
  | some .compactTimeout => 2#8

def BinEvent.code (e : BinEvent) : Byte :=
  match e with
  | .state => 0#8
  | .nearFull => 1#8
  | .removal => 2#8
  | .partially => 3#8
  | .strayIn => 4#8
  | .config => 5#8

def Seating.code (s : Seating) : Byte :=
  match s with
  | .unseated => 0#8
  | .partially => 1#8
  | .seated => 2#8

def Conveyor.code (c : Conveyor) : Byte :=
  match c with
  | .stopped => 0#8
  | .starting _ => 1#8
  | .running _ => 2#8
  | .runOut _ _ => 3#8
  | .halted => 4#8
  | .fault => 5#8

/-- Conveyor fault cause: STALL in FAULT. -/
def Conveyor.causeCode (c : Conveyor) : Byte := flagByte (c == .fault)

def Pocket.code (p : Pocket) : Byte :=
  match p with
  | .empty => 0#8
  | .granted _ _ => 1#8
  | .loaded _ => 2#8
  | .foreign => 3#8
  | .releasing _ => 4#8
  | .fault => 5#8

/-- Pocket fault cause: STUCK in FAULT. -/
def Pocket.causeCode (p : Pocket) : Byte := flagByte (p == .fault)

def Origin.code (o : Option Origin) : Byte :=
  match o with
  | some (.lane l) => BitVec.ofNat 8 l.val
  | some .foreign => 4#8
  | none => 0xFF#8

def StrayCause.code (c : StrayCause) : Byte :=
  match c with
  | .unconfirmed => 1#8
  | .notDiverted => 2#8
  | .noReroute => 3#8

def CalOperation.code (o : CalOperation) : Byte :=
  match o with
  | .zero => 0#8
  | .span => 1#8
  | .autoZero => 2#8

def CalOutcome.code (o : CalOutcome) : Byte :=
  match o with
  | .done => 0#8
  | .scaleRange => 1#8
  | .unstable => 2#8
  | .spanRange => 3#8
  | .zeroDrift => 4#8

def SessionState.code (s : SessionState) : Byte :=
  match s with
  | .none => 0#8
  | .opened => 1#8
  | .closing => 2#8

def CloseCause.code (c : Option CloseCause) : Byte :=
  match c with
  | none => 0#8
  | some .button => 1#8
  | some .idle => 2#8
  | some .laneClosed => 3#8

def LinkEvent.code (e : LinkEvent) : Byte :=
  match e with
  | .frameError => 0#8
  | .overrun => 1#8
  | .linkLost => 2#8
  | .linkRestored => 3#8

def LinkState.code (s : LinkState) : Byte :=
  match s with
  | .normal | .expiring => 0#8
  | .lost => 1#8

/-- A gain: 16, 4 or 1, and 0 when absent. -/
def Gain.code (g : Option Gain) : Byte :=
  match g with
  | none => 0#8
  | some .g16 => 16#8
  | some .g4 => 4#8
  | some .g1 => 1#8

/-! ### Report bodies (R205) -/

def ContainerReport.body (r : ContainerReport) : List Byte :=
  u8 r.lane.val ++ u16 r.seq ++ codeBytes r.code ++ numOpt r.cls ++ u16Opt r.weight ++ u8Opt r.diameter ++ u16Opt r.length ++
  [Gain.code r.gain, Verdict.code (some r.verdict), Verdict.reasonCode (some r.verdict)] ++ numOpt r.destination

/-- A session line: class, unit value, count, line value. -/
def SessionLine.bytes (x : SessionLine) : List Byte := u8 x.cls.val ++ u16 x.unitValue ++ u16 x.count ++ u32 x.lineValue

def VoucherReport.body (r : VoucherReport) : List Byte :=
  u8 r.lane.val ++ u16 r.number ++ [CloseCause.code r.cause] ++ u8 r.lines.length ++ u16 r.itemCount ++ u32 r.valueTotal ++
  u16 r.rejected ++ r.lines.flatMap SessionLine.bytes

def LaneReport.body (r : LaneReport) : List Byte :=
  u8 r.lane.val ++ [r.state.code, LaneFault.code r.faultCause, r.holds.byte, flagByte r.closePending] ++ u16 r.lastWithdrawn

def BinReport.body (r : BinReport) : List Byte :=
  u8 r.bin.val ++ [r.event.code, r.state.code, BinFault.code r.faultCause] ++ u16 r.fill ++ u16 r.reserved ++
  [flagByte r.nearFull] ++ u16 r.strayIns ++ [r.seating.code] ++ u16Opt r.removalFill

/-- The class of a token is told only where its origin is a lane. -/
def Token.reportFields (t : Token) : List Byte := [Origin.code (some t.origin)] ++ seqBytes t.seq ++ numOpt t.cls

def RingEvent.body (e : RingEvent) (catchCount : Nat) : List Byte :=
  match e with
  | .stray t p b c => [0#8] ++ t.reportFields ++ u8 p.val ++ u8 b.val ++ [c.code] ++ u8 catchCount
  | .caught t => [1#8] ++ t.reportFields ++ [0xFF#8, 0xFF#8, 0#8] ++ u8 catchCount
  | .missing t => [2#8] ++ t.reportFields ++ [0xFF#8, 0xFF#8, 0#8] ++ u8 catchCount
  | .phantom => [3#8, Origin.code none] ++ seqBytes none ++ [0xFF#8, 0xFF#8, 0xFF#8, 0#8] ++ u8 catchCount

def ConveyorReport.body (r : ConveyorReport) : List Byte :=
  [r.conveyor.code, r.conveyor.causeCode, r.pocket.code, r.pocket.causeCode] ++ u8 r.catchCount ++ [flagByte r.trayFull]

def CalReport.body (r : CalReport) : List Byte :=
  u8 r.lane.val ++ [r.operation.code, r.outcome.code] ++ s32Bytes r.zero ++ u16 r.span ++ u32Opt r.drift

def LinkReport.body (r : LinkReport) : List Byte :=
  [r.event.code, r.link.code] ++ u16 r.frameErrors ++ u16 r.overruns

/-- The KIND of each report (11.1). -/
def Report.kind (r : Report) : Byte :=
  match r with
  | .container _ => 0x81#8
  | .codeQuery _ _ _ => 0x82#8
  | .voucher _ => 0x83#8
  | .lane _ => 0x84#8
  | .bin _ => 0x85#8
  | .ring _ _ => 0x86#8
  | .conveyor _ => 0x87#8
  | .calibration _ => 0x88#8
  | .link _ => 0x89#8

/-- The body of each report (R205). -/
def Report.body (r : Report) : List Byte :=
  match r with
  | .container r => r.body
  | .codeQuery l seq code => u8 l.val ++ u16 seq ++ codeBytes (some code)
  | .voucher r => r.body
  | .lane r => r.body
  | .bin r => r.body
  | .ring e n => e.body n
  | .conveyor r => r.body
  | .calibration r => r.body
  | .link r => r.body

/-- The frame of a report; bit 0 of its TAG is the LOST flag (R201). -/
def Report.frame (r : Report) (lost : Bool) : Frame := ⟨r.kind, flagByte lost, r.body⟩

/-! ### QUERY data (R206) -/

/-- The 35 bytes of a SET_LANE body after its lane byte. -/
def LaneUnit.configBytes (u : LaneUnit) : List Byte :=
  let c := u.config
  u8 c.beltPitch ++ u16 c.stopDistance ++ u16 c.maxLength ++ u8 c.settleCount ++ u16 c.stabilityLimit ++ u8 c.attempts ++
  u16 c.autoZeroInterval ++ u8 c.zeroBand ++ [flagByte c.queryEnabled] ++ u16 c.itemCap ++ u32 c.valueCap ++
  u16 c.standbyTime ++ u16 c.dormantTime ++ u16 c.sessionIdleTime ++ u16 c.handoffTime ++ u16 c.returnTravel ++
  s32Bytes u.zero ++ u16 u.span

/-- QUERY of a lane, 53 bytes. -/
def State.laneData (s : State) (l : Lane) : List Byte :=
  let u := s.lane l
  [u.state.code, LaneFault.code u.faultCause, u.holds.byte, bitByte u.closePending u.coldStart u.calRunning false] ++
  u16 u.nextSeq ++ u16 u.lastWithdrawn ++ u.configBytes ++ u32 u.curtain.settled.toNat ++ [flagByte u.mouth.settled] ++
  seqBytes (u.record.map (·.seq)) ++ [Verdict.code u.verdict, Verdict.reasonCode u.verdict] ++
  numOpt (u.record.bind (·.destination))

/-- QUERY of a bin, 24 bytes. Its compactor done flag is the settled state that the model keeps for the line (note 17). -/
def State.binData (s : State) (b : BinId) : List Byte :=
  let u := s.bin b
  u8 b.val ++ u8 u.position.val ++ [u.materials.byte] ++ u16 u.capacity ++ u16 u.nearFull ++ u8 u.interval ++
  [u.state.code, BinFault.code u.faultCause] ++ u16 u.fill ++ u16 u.reserved ++ [flagByte (decide (u.nearFull ≤ u.fill))] ++
  u16 u.strayIns ++ [u.seating.code] ++ u16Opt u.removalFill ++
  [flagByte u.fillHeld, flagByte u.ready, flagByte u.done, flagByte u.window]

/-- The lane the pocket is granted to. -/
def Pocket.grantedLane (p : Pocket) : Option Lane :=
  match p with
  | .granted l _ => some l
  | _ => none

/-- The origin of the pocket's content: the lane of a LOADED content, FOREIGN in FOREIGN. -/
def Pocket.contentOrigin (p : Pocket) : Option Origin :=
  match p with
  | .loaded r => some (.lane r.lane)
  | .foreign => some .foreign
  | _ => none

/-- The seq of a LOADED content. -/
def Pocket.contentSeq (p : Pocket) : Option Nat :=
  match p with
  | .loaded r => some r.seq
  | _ => none

/-- Class in bits 0 to 3 and material in bits 4 and 5; 0xFF when absent. -/
def Token.classMaterial (t : Token) : Byte :=
  match t.cls, t.material with
  | some c, some m => BitVec.ofNat 8 (c.val + 16 * m.code)
  | _, _ => 0xFF#8

/-- One token of a QUERY of the ring, 6 bytes. -/
def tokenBytes (p : Position) (t : Token) : List Byte :=
  u8 p.val ++ [Origin.code (some t.origin)] ++ seqBytes t.seq ++ [t.classMaterial] ++ numOpt t.destination

/-- The ring positions in rising order. -/
def allPositions : List Position := List.finRange 32

/-- The tokens with their positions, in rising order of position. -/
def State.tokens (s : State) : List (Position × Token) :=
  allPositions.filterMap (fun p => (s.tokenAt p).map (fun t => (p, t)))

/-- The open confirmation windows, bit b for bin b. -/
def State.windowByte (s : State) : Byte :=
  (allBins.map (fun b => if (s.bin b).window then BitVec.ofNat 8 (2 ^ b.val) else 0#8)).foldl (· + ·) 0#8

/-- QUERY of the ring, 17 bytes and 6 for each token. -/
def State.ringData (s : State) : List Byte :=
  [s.conveyor.code, s.conveyor.causeCode, s.pocket.code, s.pocket.causeCode] ++ u8 s.catchCount ++ [flagByte s.trayFull] ++
  numOpt s.pocket.grantedLane ++ [Origin.code s.pocket.contentOrigin] ++ seqBytes s.pocket.contentSeq ++
  u8 s.requests.length ++ ((s.requests.map (fun l => BitVec.ofNat 8 l.val)) ++ List.replicate 4 0xFF#8).take 4 ++
  [s.windowByte] ++ u8 s.tokens.length ++ s.tokens.flatMap (fun x => tokenBytes x.1 x.2)

/-- QUERY of the counters, 31 bytes. -/
def State.counterData (s : State) : List Byte :=
  u32 s.counters.handedOff.toNat ++ u32 s.counters.foreign.toNat ++ u32 s.counters.delivered.toNat ++
  u32 s.counters.caught.toNat ++ u32 s.counters.missing.toNat ++ u32 s.counters.phantom.toNat ++
  u16 s.link.frameErrors ++ u16 s.link.overruns ++ u8 s.link.queue.length ++ u8 s.link.heldOut.length ++
  [flagByte s.link.lost]

/-- QUERY of a session, 15 bytes and 9 for each line. -/
def State.sessionData (s : State) (l : Lane) : List Byte :=
  let t := (s.lane l).session
  u8 l.val ++ [t.state.code] ++ u16 t.number ++ [CloseCause.code t.cause, flagByte t.voucherWaiting] ++
  u8 t.lines.length ++ u16 t.itemCount ++ u32 t.valueTotal ++ u16 t.rejected ++ t.lines.flatMap SessionLine.bytes

end Sys2Proof.Machine
end

