-- ==== Sys2Proof/Machine/Ring.lean ====
section
/-! DEFINITION. The Slot Ring's tokens: STRAY turns, confirmation windows, reroutes and the catch count (7.2 to 7.6), and the
re-choice of records and pocket content (R111, R158). -/

namespace Sys2Proof.Machine

/-! ### Tokens -/

/-- The token of a pocket content: of lane origin for a record, FOREIGN for none (R115, R128). -/
def Token.ofRecord (r : ContainerRecord) : Token := ⟨.lane r.lane, some r.seq, r.cls, r.material, r.destination⟩

/-- The token of a foreign content (R115, R128). -/
def Token.foreign : Token := ⟨.foreign, none, none, none, none⟩

/-- A RING report is made (R142). -/
def State.makeRing (s : State) (e : RingEvent) : State := s.makeWhole (.ring e s.catchCount)

/-- A ROUTED token at a position turns STRAY: its destination is cleared, its reservation released, and a RING report made (R137). -/
def State.strayTurn (s : State) (p : Position) (cause : StrayCause) : State :=
  match s.tokenAt p with
  | some t =>
    match t.destination with
    | some b =>
      let s := (s.setToken p (some { t with destination := none })).release (some b)
      s.makeRing (.stray t p b cause)
    | none => s
  | none => s

/-- A bin's confirmation window closes. -/
def State.closeWindow (s : State) (b : BinId) : State := s.modBin b (fun u => { u with window := false })

/-- A window still open at the next advance closes, and its token turns STRAY with cause UNCONFIRMED (R130). -/
def State.expireWindow (s : State) (b : BinId) : State :=
  if (s.bin b).window then (s.closeWindow b).strayTurn (s.bin b).position .unconfirmed else s

/-! ### The catch tray -/

/-- The catch count takes a value; the tray becoming full makes a CONVEYOR report (R139). -/
def State.setCatch (s : State) (n : Nat) : State :=
  let s' := { s with catchCount := n }
  if !s.trayFull && s'.trayFull then s'.noteConveyor else s'

/-- An object has fallen into the tray (R131, R139). -/
def State.catchOne (s : State) : State := s.setCatch (satSucc 255 s.catchCount)

/-! ### Rerouting (R138) -/

/-- Of two bins the one of smaller position. -/
def nearerBin (s : State) (best : Option BinId) (b : BinId) : Option BinId :=
  match best with
  | none => some b
  | some a => if (s.bin b).position < (s.bin a).position then some b else some a

/-- The nearest eligible bin downstream of a position that takes a material (R138). -/
def State.nearestBin (s : State) (p : Position) (m : Material) : Option BinId :=
  (allBins.filter (fun b => (s.bin b).eligible m && decide (p < (s.bin b).position))).foldl (nearerBin s) none

/-- A token at its bin's position with the window open has the window closed and the diverter pulse released (R138). -/
def State.cutWindow (s : State) (b : BinId) (p : Position) : State :=
  if (s.bin b).window && (s.bin b).position == p then s.modBin b (fun u => { u with window := false, diverter := false }) else s

/-- The token at a position, if destined for the bin left, is rerouted or turns STRAY with cause NO_REROUTE (R138). -/
def State.rerouteToken (b : BinId) (s : State) (p : Position) : State :=
  match s.tokenAt p with
  | some t =>
    if t.destination = some b then
      let s := s.cutWindow b p
      match t.material.bind (s.nearestBin p) with
      | some b' => ((s.release (some b)).reserve b').setToken p (some { t with destination := some b' })
      | none => s.strayTurn p .noReroute
    else s
  | none => s

/-- Every token destined for a bin is rerouted, from the highest position down (R138). -/
def State.rerouteTokens (s : State) (b : BinId) : State := allPositions.reverse.foldl (State.rerouteToken b) s

/-! ### Re-choice (R111, R158) -/

/-- The preferred bin of a record's class, as the Class Profile Table holds it now (R81). -/
def State.preferredOf (s : State) (c : Option ClassId) : Option BinId := c.bind (fun c => (s.classAt c).preferred)

/-- The reservation on the old bin is released and a destination chosen for the record's material; the new one is reserved
(R111, R158). -/
def State.rechoose (s : State) (r : ContainerRecord) : ContainerRecord × State :=
  let s := s.release r.destination
  let choice := r.material.bind (fun m => s.chooseBin m (s.preferredOf r.cls))
  match choice with
  | some b => ({ r with destination := some b }, s.reserve b)
  | none => ({ r with destination := none }, s)

/-- A LOADED pocket content destined for a bin is re-chosen (R158 step 2). -/
def State.rechoosePocket (s : State) (b : BinId) : State :=
  match s.pocket with
  | .loaded r =>
    if r.destination = some b then
      let (r, s) := s.rechoose r
      { s with pocket := .loaded r }
    else s
  | _ => s

/-- A lane's record destined for a bin is re-chosen (R158 steps 3 to 5). -/
def State.rechooseLane (b : BinId) (s : State) (l : Lane) : State :=
  match (s.lane l).record with
  | some r =>
    if r.destination = some b then
      let (r, s) := s.rechoose r
      s.modLane l (fun u => { u with record := some r })
    else s
  | none => s

/-- The lanes in a state, in number order. -/
def State.lanesIn (s : State) (t : LaneState) : List Lane := allLanes.filter (fun l => (s.lane l).state = t)

/-- The reservations of a bin that leaves eligibility are carried elsewhere, in the order of R158. -/
def State.moveReservations (s : State) (b : BinId) : State :=
  let s := (s.rerouteTokens b).rechoosePocket b
  let s := (s.lanesIn .handoff).foldl (State.rechooseLane b) s
  let s := s.requests.foldl (State.rechooseLane b) s
  (s.lanesIn .fault).foldl (State.rechooseLane b) s

end Sys2Proof.Machine
end

