-- ==== Sys2Proof/Machine/Bins.lean ====
section
/-! DEFINITION. The Bin Manager's transitions: seating, power, deliveries, compaction, service and clearing (chapter 8). -/

namespace Sys2Proof.Machine

/-- A state with a diverter that may fire (R147). -/
def BinState.delivers (t : BinState) : Bool :=
  match t with
  | .opened | .compactPending => true
  | _ => false

/-- The bin's items at its entry to a state: outside FAULT the cause is given up, outside OPEN and COMPACT_PENDING the diverter
pulse is released, at POWERING the settled ready starts not-ready and at COMPACTING the settled done starts not-done (R134, R147,
R150, R156). -/
def BinUnit.entering (u : BinUnit) (t : BinState) (cause : Option BinFault) : BinUnit :=
  { u with
    state := t
    faultCause := cause
    diverter := u.diverter && t.delivers
    ready := if t = .powering then false else u.ready
    done := if t = .compacting then false else u.done }

/-- A bin enters a state; a change makes a BIN report that carries the event named (R163). -/
def State.binEnters (s : State) (b : BinId) (t : BinState) (cause : Option BinFault) (event : BinEvent) : State :=
  let changed := (s.bin b).state != t
  let s := s.modBin b (fun u => u.entering t cause)
  if changed then s.noteBin b event else s

/-- A bin enters a state other than FAULT. -/
def State.binTo (s : State) (b : BinId) (t : BinState) : State := s.binEnters b t none .state

/-- A bin enters FAULT with a cause (R150, R157). -/
def State.binFault (s : State) (b : BinId) (cause : BinFault) : State := s.binEnters b .fault (some cause) .state

/-! ### Seating (R148, R149) -/

/-- The raw condition of two contacts (R148). -/
def contactsOf (a b : Bool) : Contacts :=
  match a, b with
  | true, true => .both
  | false, false => .neither
  | _, _ => .one

/-- The settled seating that matches a raw condition (R148). -/
def Contacts.seating (c : Contacts) : Seating :=
  match c with
  | .neither => .unseated
  | .one => .partially
  | .both => .seated

/-- The settled seating becomes SEATED (R149). -/
def State.binSeated (s : State) (b : BinId) : State :=
  match (s.bin b).state with
  | .absent =>
    let s := s.modBin b (fun u => { u with fill := if u.fillHeld then u.fill else 0, fillHeld := false })
    s.binTo b .powering
  | _ => s

/-- A removal: removal fill takes the fill, fill held is cleared, and the bin's reservations are moved (R149, R158). -/
def State.binRemoved (s : State) (b : BinId) : State :=
  let s := s.modBin b (fun u => { u with removalFill := some u.fill, fillHeld := false })
  (s.binEnters b .absent none .removal).moveReservations b

/-- The settled seating leaves SEATED for UNSEATED (R149). -/
def State.binUnseated (s : State) (b : BinId) : State :=
  match (s.bin b).state with
  | .powering | .opened | .compactPending | .compacting | .full => s.binRemoved b
  | .fault | .absent | .unconfigured | .service => s.modBin b (fun u => { u with fillHeld := false })

/-- The settled seating becomes PARTIAL: a configured bin reports it (R149). -/
def State.binPartial (s : State) (b : BinId) : State := if (s.bin b).configured then s.noteBin b .partially else s

/-- The settled seating takes a value, and its change acts on the bin (R148, R149). -/
def State.settleSeating (s : State) (b : BinId) (t : Seating) : State :=
  let old := (s.bin b).seating
  if old = t then s
  else
    let s := s.modBin b (fun u => { u with seating := t })
    match t with
    | .seated => s.binSeated b
    | .partially => s.binPartial b
    | .unseated => if old = .seated then s.binUnseated b else s

/-- A reading of the detect contacts (R148): a condition that differs restarts the debounce, and SEATED is left at once. -/
def State.readContacts (s : State) (b : BinId) (c : Contacts) : State :=
  if (s.bin b).contacts = c then s
  else
    let s := s.modBin b (fun u => { u with contacts := c, debouncing := true })
    if (s.bin b).seating = .seated then s.settleSeating b .unseated else s

/-- The debounce timer expires, and the seating takes the value matching the raw condition (R148). -/
def State.debounceExpires (s : State) (b : BinId) : State :=
  if (s.bin b).debouncing then
    (s.modBin b (fun u => { u with debouncing := false })).settleSeating b (s.bin b).contacts.seating
  else s

/-! ### Ready, done and their timers (R150, R157) -/

/-- Loss of ready in OPEN or COMPACT_PENDING, COMPACTING or FULL: FAULT NOT_READY, with the reservations moved (R150, R158). -/
def State.loseReady (s : State) (b : BinId) : State := (s.binFault b .notReady).moveReservations b

/-- The settled ready line changes (R150). -/
def State.readyChanges (s : State) (b : BinId) (asserted : Bool) : State :=
  if (s.bin b).ready = asserted then s
  else
    let s := s.modBin b (fun u => { u with ready := asserted })
    match (s.bin b).state with
    | .powering => if asserted then s.binTo b (s.bin b).openOrFull else s
    | .opened | .compactPending | .compacting | .full => if asserted then s else s.loseReady b
    | .unconfigured | .absent | .service | .fault => s

/-- The power-up timer expires (R150). -/
def State.powerUpExpires (s : State) (b : BinId) : State :=
  match (s.bin b).powerUpTimer with
  | some _ => s.binFault b .notReady
  | none => s

/-- The settled done line becomes asserted; it is ignored outside COMPACTING (R157), where the model leaves its settled state as it was
(note 17). -/
def State.compactorFinishes (s : State) (b : BinId) : State :=
  match (s.bin b).state with
  | .compacting => (s.modBin b (fun u => { u with done := true })).binTo b .opened
  | _ => s

/-- The compaction timer expires (R157). -/
def State.compactionExpires (s : State) (b : BinId) : State :=
  match (s.bin b).compactionTimer with
  | some _ => s.binFault b .compactTimeout
  | none => s

/-- A COMPACT_PENDING bin whose reserved is 0 enters COMPACTING (R156). -/
def State.startCompacting (s : State) (b : BinId) : State := s.binTo b .compacting

/-! ### Deliveries and stray-ins -/

/-- The new fill of a delivery calls for NEAR_FULL, FULL and compaction in R155's order; its fourth step is the corner's own rule
for a COMPACT_PENDING bin (R156). -/
def State.fillRose (s : State) (b : BinId) : State :=
  let s := if (s.bin b).fill = (s.bin b).nearFull then s.noteBin b .nearFull else s
  let u := s.bin b
  if u.fill = u.capacity then s.binTo b .full
  else if u.interval ≠ 0 ∧ u.fill % u.interval = 0 ∧ u.state = .opened then s.binTo b .compactPending
  else s

/-- A confirmed delivery of the token at the bin's position (R135, R155). -/
def State.deliver (s : State) (b : BinId) : State :=
  let s := s.setToken (s.bin b).position none
  let s := { s with counters := { s.counters with delivered := s.counters.delivered + 1 } }
  let s := s.modBin b (fun u => { u with window := false, fill := u.fill + 1, reserved := u.reserved - 1 })
  s.fillRose b

/-- An object enters a configured bin with no window open (R159). -/
def State.strayIn (s : State) (b : BinId) : State :=
  if (s.bin b).configured then
    (s.modBin b (fun u => { u with strayIns := satSucc 65535 u.strayIns })).noteBin b .strayIn
  else s

/-- The entry beam of a bin settles blocked (R135, R159). -/
def State.entryBlocked (s : State) (b : BinId) : State :=
  let s := s.modBin b (fun u => { u with entryBeam := true })
  if (s.bin b).window then s.deliver b else s.strayIn b

/-! ### Configuration, service and clearing -/

/-- BIN_SERVICE begin taken (R160). -/
def State.serviceBegins (s : State) (b : BinId) : State := (s.binTo b .service).moveReservations b

/-- BIN_SERVICE end taken with a fill (R161). -/
def State.serviceEnds (s : State) (b : BinId) (fill : Nat) : State :=
  let s := s.modBin b (fun u => { u with fill := fill, strayIns := 0 })
  if (s.bin b).seating = .seated then s.binTo b .powering
  else (s.modBin b (fun u => { u with fillHeld := true })).binTo b .absent

/-- CLEAR of a FAULT bin taken: its state is decided from its seating and ready lines (R162). -/
def State.clearBin (s : State) (b : BinId) : State :=
  if (s.bin b).seating = .seated then
    if (s.bin b).ready then s.binTo b (s.bin b).openOrFull else s.binTo b .powering
  else (s.modBin b (fun u => { u with fillHeld := false })).binTo b .absent

/-- A SET_BIN's fields written whole, the stray-in count 0, and a BIN report with event CONFIG (R146, R163). -/
def State.writeBin (s : State) (b : BinId) (position : Position) (materials : MaterialSet)
    (capacity nearFull interval fill : Nat) : State :=
  let s := s.modBin b (fun u =>
    { u with position := position, materials := materials, capacity := capacity, nearFull := nearFull, interval := interval,
             fill := fill, strayIns := 0 })
  let s := s.noteBin b .config
  match (s.bin b).state with
  | .unconfigured =>
    if (s.bin b).seating = .seated then s.binTo b .powering
    else (s.modBin b (fun u => { u with fillHeld := true })).binTo b .absent
  | .absent => s.modBin b (fun u => { u with fillHeld := true })
  | _ => s

end Sys2Proof.Machine
end

