-- ==== Sys2Proof/Machine/Sessions.lean ====
section
/-! DEFINITION. The Session Unit: credit, the count of rejects, close requests and the offer of a voucher (chapter 9). -/

namespace Sys2Proof.Machine

/-- The line of a credit: the key's line grows by one, or a new line stands at the end (R166 step 2). -/
def creditLines (c : ClassId) (v : Nat) : List SessionLine → List SessionLine
  | [] => [⟨c, v, 1, v⟩]
  | x :: xs =>
    if x.cls = c ∧ x.unitValue = v then { x with count := x.count + 1, lineValue := x.lineValue + v } :: xs
    else x :: creditLines c v xs

/-- A session that is NONE opens empty, with the number it holds (R166 step 1). -/
def Session.begun (t : Session) : Session :=
  match t.state with
  | .none => { Session.none t.number with state := .opened }
  | .opened | .closing => t

/-- A credit of class c at unit value v (R166). -/
def Session.credited (t : Session) (c : ClassId) (v : Nat) : Session :=
  let t := t.begun
  { t with lines := creditLines c v t.lines, itemCount := t.itemCount + 1, valueTotal := t.valueTotal + v }

/-- The credit of a loaded record, with its frozen class and unit value (R112, R166). -/
def State.credit (s : State) (l : Lane) (r : ContainerRecord) : State :=
  match r.cls, r.unitValue with
  | some c, some v => s.modLane l (fun u => { u with session := u.session.credited c v })
  | _, _ => s

/-- A session told of a reject counts it when OPEN (R167). -/
def Session.rejectCounted (t : Session) : Session :=
  match t.state with
  | .opened => { t with rejected := satSucc 65535 t.rejected }
  | .none | .closing => t

/-- The Session Unit is told of a reject at a lane (R93, R167). -/
def State.tellReject (s : State) (l : Lane) : State :=
  s.modLane l (fun u => { u with session := u.session.rejectCounted })

/-- A close request: an OPEN session becomes CLOSING with its cause, and SESSION_CLOSING goes into the hold set (R169, R170). -/
def State.closeRequest (s : State) (l : Lane) (cause : CloseCause) : State :=
  match (s.lane l).session.state with
  | .opened =>
    let s := s.modLane l (fun u => { u with session := { u.session with state := .closing, cause := some cause } })
    s.setHolds l { (s.lane l).holds with sessionClosing := true }
  | .none | .closing => s

/-- The voucher of a CLOSING session is offered; it stands as waiting until it enters the queue (R171, R172). -/
def State.offerVoucher (s : State) (l : Lane) : State :=
  (s.modLane l (fun u => { u with session := { u.session with voucherWaiting := true } })).make (.voucher l)

/-- The crediting of a container of unit value v keeps the session within its caps (R90). A session in NONE holds no lines and
zeros (R165). -/
def Session.withinCaps (t : Session) (c : ClassId) (v itemCap valueCap : Nat) : Bool :=
  decide (t.itemCount + 1 ≤ itemCap) && decide (t.valueTotal + v ≤ valueCap) &&
  (t.lines.any (fun x => x.cls == c && x.unitValue == v) || decide (t.lines.length < Config.sessionLines))

end Sys2Proof.Machine
end

