-- ==== Sys2Proof/Machine/Lanes.lean ====
section
/-! DEFINITION. The Lane Unit's own transitions: opening and closing, waking, admission, return, fault, withdrawal, verdict writing
and close-pending (chapter 1). -/

namespace Sys2Proof.Machine

/-! ### Runs of the Weigher, started and ended from the lane -/

/-- The Weigher at the end of a run, finished or abandoned (R49). -/
def LaneUnit.endRun (u : LaneUnit) : LaneUnit := { u with weigher := Weigher.idle }

/-- The start of a run: gain 16, empty window, attempt count 0, and the first discard of R50 (R49). -/
def LaneUnit.startRun (u : LaneUnit) (kind : RunKind) (mass : Option Nat) : LaneUnit :=
  { u with weigher :=
      { run := kind
        phase := .discard
        gain := .g16
        discardRemaining := if u.coldStart then Config.coldStartDiscard else u.config.settleCount
        coldDiscard := u.coldStart
        samples := []
        attempts := 0
        refMass := mass } }

/-- An AUTO_ZERO run is abandoned with Z unchanged (R65). -/
def LaneUnit.abandonAutoZero (u : LaneUnit) : LaneUnit := if u.weigher.run = .autoZero then u.endRun else u

/-- A lane that leaves DORMANT, or opens with its converter off, has the converter switched on and cold-start set (R24, R48). -/
def LaneUnit.powerConverter (u : LaneUnit) : LaneUnit :=
  if u.converterOn then u else { u with converterOn := true, coldStart := true }

/-! ### Entry to READY, STANDBY, DORMANT and CLOSED -/

/-- The lane enters READY from another open state: the belt stops, a fault cause is given up and the profile phase becomes NONE
(R1, R4, R24, R34). -/
def State.enterReady (s : State) (l : Lane) : State :=
  (s.modLane l (fun u =>
    { u.powerConverter with
      belt := .off, faultCause := none, mouthOpen := false, curtain := { u.curtain with phase := .none } })).setLaneState l .ready

/-- The standby timer expires: an auto-zero run is abandoned (R23). -/
def State.enterStandby (s : State) (l : Lane) : State := (s.modLane l LaneUnit.abandonAutoZero).setLaneState l .standby

/-- The dormant timer expires: the converter is switched off (R24). -/
def State.enterDormant (s : State) (l : Lane) : State :=
  (s.modLane l (fun u => { u with converterOn := false })).setLaneState l .dormant

/-- Activity, or the last hold cause leaving a blocked mouth, wakes a STANDBY or DORMANT lane to READY (R24). -/
def State.wake (s : State) (l : Lane) : State :=
  match (s.lane l).state with
  | .standby | .dormant => s.enterReady l
  | _ => s

/-- Entry to CLOSED (R14, R40, R65). Z, K, the configuration, cold-start, the numbering, the converter and the code reader port
are kept (R14, R47). -/
def State.enterClosed (s : State) (l : Lane) : State :=
  (s.modLane l (fun u =>
    { u.endRun with
      faultCause := none, holds := HoldSet.none, closePending := false, calRunning := false, belt := .off, mouthOpen := false,
      curtain := Curtain.reset })).setLaneState l .closed

/-- Entry to READY from CLOSED: the curtain, mouth and button start clear, LINK is taken while the link is LOST, and a converter
left off is switched on with cold-start set (R8, R10, R12, R40, R48). CONVEYOR is taken by the corner's own rule (R127). -/
def State.openUp (s : State) (l : Lane) : State :=
  (s.modLane l (fun u =>
    { u.powerConverter with
      holds := { HoldSet.none with link := s.link.state == .lost }, closePending := false, curtain := Curtain.reset, mouth := Debounced.clear,
      button := Debounced.clear })).setLaneState l .ready

/-! ### The record -/

/-- A new container record (R6, R7). -/
def ContainerRecord.fresh (l : Lane) (seq : Nat) : ContainerRecord where
  lane := l
  seq := seq
  diameter := none
  length := none
  code := none
  badReads := 0
  conflict := false
  weighing := none
  gain := none
  verdict := none
  cls := none
  material := none
  unitValue := none
  destination := none

/-- Entry to ADMIT: the record is created, the sequence number advances, the belt starts forward, the shutter is open until the
mouth first settles clear, the profile waits, and an auto-zero run is abandoned (R6, R9, R15, R34, R65). -/
def State.enterAdmit (s : State) (l : Lane) : State :=
  (s.modLane l (fun u =>
    { u.abandonAutoZero with
      record := some (ContainerRecord.fresh l u.nextSeq), nextSeq := seqNext u.nextSeq, belt := .forward, mouthOpen := true,
      curtain := { u.curtain with phase := .waiting, pulses := 0, extent := 0, stops := 0 } })).setLaneState l .admitting

/-- The record is dropped with its reservation released (R7). -/
def State.dropRecord (s : State) (l : Lane) : State :=
  (s.release ((s.lane l).record.bind (·.destination))).modLane l (fun u => { u with record := none })

/-- A withdrawal: last withdrawn takes the record's seq, the record is dropped, and the lane enters READY with a LANE report (R16). -/
def State.withdraw (s : State) (l : Lane) : State :=
  let seq := (s.lane l).record.map (·.seq)
  let s := s.modLane l (fun u => { u with lastWithdrawn := seq.getD u.lastWithdrawn })
  ((s.dropRecord l).enterReady l).noteLane l

/-- Entry to RETURN: the reservation is released and the destination cleared, the fault cause is given up, and the belt reverses
unless the mouth is settled blocked (R20). -/
def State.enterReturn (s : State) (l : Lane) : State :=
  let s := s.release ((s.lane l).record.bind (·.destination))
  let s := s.modRecord l (fun r => { r with destination := none })
  (s.modLane l (fun u =>
    { u with
      faultCause := none, mouthOpen := false, returnTravel := 0
      belt := if u.mouth.settled then .off else .reverse })).setLaneState l .returning

/-- The mouth settles clear with the belt stopped in RETURN: the record is dropped and the lane enters READY (R20). -/
def State.endReturn (s : State) (l : Lane) : State := (s.dropRecord l).enterReady l

/-- The belt stops at the stop distance and the lane enters WEIGH, where a CONTAINER run starts (R17, R39, R49). -/
def State.enterWeigh (s : State) (l : Lane) : State :=
  (s.modLane l (fun u => { u.startRun .container none with belt := .off, mouthOpen := false })).setLaneState l .weigh

/-- The lane enters HOLD and its request joins the Merge Request List at the tail (R19, R104). -/
def State.enterHold (s : State) (l : Lane) : State :=
  ((s.modLane l (fun u => { u with faultCause := none })).setLaneState l .hold).joinRequests l

/-! ### Faults -/

/-- A pocket GRANTED to a lane returns to EMPTY (R21, R113). -/
def State.ungrant (s : State) (l : Lane) : State :=
  match s.pocket with
  | .granted l' _ => if l' = l then { s with pocket := .empty } else s
  | _ => s

/-- What was running in the state a lane leaves for FAULT ends (R21). -/
def State.endLeftState (s : State) (l : Lane) : State :=
  match (s.lane l).state with
  | .admitting => s.modLane l (fun u => { u with curtain := { u.curtain with phase := .none } })
  | .weigh => s.modLane l LaneUnit.endRun
  | .query => s.endQuery l
  | .hold => s.dropRequest l
  | .handoff => s.ungrant l
  | .ready | .standby | .dormant => s.modLane l (fun u => { u.endRun with calRunning := false })
  | .closed | .fault | .returning => s

/-- An open lane enters FAULT with a cause; in FAULT the first cause stands (R21). -/
def State.laneFault (s : State) (l : Lane) (cause : LaneFault) : State :=
  match (s.lane l).state with
  | .closed | .fault => s
  | _ =>
    ((s.endLeftState l).modLane l (fun u =>
      { u.powerConverter with belt := .off, faultCause := some cause, mouthOpen := false })).setLaneState l .fault

/-! ### Verdict reports -/

/-- The weight of a weighing result that is one (R94). -/
def Weighing.weight? (w : Weighing) : Option Nat :=
  match w with
  | .weight dg => some dg
  | .overweight | .unstable => none

/-- The CONTAINER report of a record and its verdict, with the class that R94 gives it and the destination of an ACCEPT. -/
def ContainerRecord.report (r : ContainerRecord) (v : Verdict) (cls : Option ClassId) : Report :=
  .container
    { lane := r.lane
      seq := r.seq
      code := r.code
      cls := cls
      weight := r.weighing.bind Weighing.weight?
      diameter := r.diameter
      length := r.length
      gain := r.gain
      verdict := v
      destination := if v = .accept then r.destination else none }

/-- A reject written into a lane's record, counted by the session, reported with the class it failed against, and the lane's entry
to RETURN (R18, R22, R93, R94, R167). -/
def State.rejectRecord (s : State) (l : Lane) (reason : Reason) (cls : Option ClassId) : State :=
  match (s.lane l).record with
  | some r =>
    let s := s.modRecord l (fun r => { r with verdict := some (.reject reason) })
    let s := (s.tellReject l).makeWhole (r.report (.reject reason) cls)
    s.enterReturn l
  | none => s

/-! ### Activity and closing -/

/-- A press of the voucher button on an open lane: activity, and a close request with cause BUTTON (R8, R24, R169). -/
def State.press (s : State) (l : Lane) : State :=
  if (s.lane l).isOpen then (s.wake l).closeRequest l .button else s

/-- Close-pending is set, with CLOSE_PENDING in the hold set and a close request with cause LANE_CLOSED (R13). -/
def State.setClosePending (s : State) (l : Lane) : State :=
  let u := s.lane l
  if u.closePending then s
  else
    let s := (s.modLane l (fun u => { u with closePending := true, holds := { u.holds with closePending := true } })).noteLane l
    s.closeRequest l .laneClosed

/-- The settled mouth beam has changed (R2, R8, R15, R20, R24, R65). -/
def State.mouthSettles (s : State) (l : Lane) (blocked : Bool) : State :=
  let s := s.modLane l (fun u => { u with mouth := ⟨blocked, false⟩ })
  if blocked then
    let s := (s.modLane l LaneUnit.abandonAutoZero).wake l
    match (s.lane l).state with
    | .returning => s.modLane l (fun u => { u with belt := .off })
    | _ => s
  else
    let s := s.modLane l (fun u => { u with mouthOpen := false })
    match (s.lane l).state, (s.lane l).belt with
    | .returning, .off => s.endReturn l
    | _, _ => s

end Sys2Proof.Machine
end

