-- ==== Sys2Proof/Machine/Merge.lean ====
section
/-! DEFINITION. The Merge Arbiter: grant, loading, foreign objects, and the ends of GRANTED and RELEASING (chapter 6). -/

namespace Sys2Proof.Machine

/-- The pocket is granted to the head of the list: GRANTED, the handoff timer started, and the lane in HANDOFF with its belt
forward (R108, R109). -/
def State.grant (s : State) : State :=
  match s.requests with
  | l :: rest =>
    let s := { s with requests := rest, pocket := .granted l (s.lane l).config.handoffTime }
    (s.modLane l (fun u => { u with belt := .forward })).setLaneState l .handoff
  | [] => s

/-- The destination of a loaded record is confirmed, or chosen again (R111). -/
def State.confirmOrChoose (s : State) (r : ContainerRecord) : ContainerRecord × State :=
  match r.destination, r.material with
  | some b, some m => if (s.bin b).delivers && (s.bin b).materials.has m then (r, s) else s.rechoose r
  | _, _ => s.rechoose r

/-- A lane with close-pending at a loading asks, after the credit, that the session close (R112). -/
def State.closeAfterCredit (s : State) (l : Lane) : State :=
  if (s.lane l).closePending then s.closeRequest l .laneClosed else s

/-- The loading of the granted lane's container (R110, R111, R112). -/
def State.load (s : State) (l : Lane) : State :=
  match (s.lane l).record with
  | some r =>
    let s := { s with pocket := .loaded r }
    let s := s.modLane l (fun u => { u with record := none, belt := .off })
    let s := s.credit l r
    let (r, s) := s.confirmOrChoose r
    let s := { s with pocket := .loaded r }
    (s.closeAfterCredit l).enterReady l
  | none => s

/-- An object blocks the EMPTY pocket: FOREIGN, with a CONVEYOR report (R114, R119). -/
def State.foreignArrives (s : State) : State := { s with pocket := .foreign }.noteConveyor

/-- The pocket beam settles blocked (R114). -/
def State.pocketBlocked (s : State) : State :=
  match s.pocket with
  | .empty => s.foreignArrives
  | .granted l _ => s.load l
  | .loaded _ | .foreign | .releasing _ | .fault => s

/-- The pocket beam settles clear (R114, R116). -/
def State.pocketCleared (s : State) : State :=
  match s.pocket with
  | .releasing _ => { s with pocket := .empty }
  | .empty | .granted _ _ | .loaded _ | .foreign | .fault => s

/-- The settled pocket beam changes (R106). -/
def State.pocketBeamSettles (s : State) (blocked : Bool) : State :=
  if s.pocketBeam = blocked then s
  else if blocked then { s with pocketBeam := true }.pocketBlocked
  else { s with pocketBeam := false }.pocketCleared

/-- The handoff timer expires: the lane faults, and its fault returns the pocket to EMPTY (R113, R21). -/
def State.handoffExpires (s : State) : State :=
  match s.pocket with
  | .granted l _ => { s.laneFault l .handoffTimeout with pocket := .empty }
  | _ => s

/-- The release timer expires: the pocket enters FAULT, with a CONVEYOR report (R116, R119). -/
def State.releaseExpires (s : State) : State :=
  match s.pocket with
  | .releasing _ => { s with pocket := .fault }.noteConveyor
  | _ => s

/-- CLEAR pocket taken: EMPTY, with a CONVEYOR report (R117, R119). -/
def State.clearPocket (s : State) : State := { s with pocket := .empty }.noteConveyor

end Sys2Proof.Machine
end

