-- ==== Sys2Proof/Machine/ConveyorOps.lean ====
section
/-! DEFINITION. The Conveyor Tracker: the drive, HALT and CLEAR, and the index advance with its reconciliation, shift, release and
diverting (chapter 7). -/

namespace Sys2Proof.Machine

/-! ### The drive -/

/-- The conveyor takes a state; a change makes a CONVEYOR report (R143). -/
def State.setConveyor (s : State) (c : Conveyor) : State := if s.conveyor = c then s else { s with conveyor := c }.noteConveyor

/-- STOPPED to STARTING: the start timer takes start_time (R121, R122). -/
def State.conveyorStarts (s : State) : State := s.setConveyor (.starting s.corner.startTime)

/-- RUNNING with no work enters RUN_OUT; the stall timer runs on (R123, R124). -/
def State.conveyorRunsOut (s : State) : State :=
  match s.conveyor with
  | .running stall => s.setConveyor (.runOut stall s.corner.runOutTime)
  | _ => s

/-- RUN_OUT with work present returns to RUNNING (R124). -/
def State.conveyorResumes (s : State) : State :=
  match s.conveyor with
  | .runOut stall _ => s.setConveyor (.running stall)
  | _ => s

/-- The start timer expires (R122). -/
def State.startExpires (s : State) : State :=
  match s.conveyor with
  | .starting _ => s.setConveyor .fault
  | _ => s

/-- The stall timer expires (R123). -/
def State.stallExpires (s : State) : State :=
  match s.conveyor with
  | .running _ | .runOut _ _ => s.setConveyor .fault
  | _ => s

/-- The run-out timer expires (R124). -/
def State.runOutExpires (s : State) : State :=
  match s.conveyor with
  | .runOut _ _ => s.setConveyor .stopped
  | _ => s

/-- HALT off takes a HALTED conveyor to STOPPED (R125). -/
def State.haltOff (s : State) : State :=
  match s.conveyor with
  | .halted => s.setConveyor .stopped
  | _ => s

/-- The pulse starts a STARTING conveyor running, and restarts the stall timer with stall_time as it stands (R121, R122, R123). A
report is made of the change of state alone. -/
def State.pulseDrive (s : State) : State :=
  match s.conveyor with
  | .starting _ => s.setConveyor (.running s.corner.stallTime)
  | .running _ => { s with conveyor := .running s.corner.stallTime }
  | .runOut _ runOut => { s with conveyor := .runOut s.corner.stallTime runOut }
  | .stopped | .halted | .fault => s

/-! ### The index advance (R129) -/

/-- Every open confirmation window closes unconfirmed, before the four steps (R130). -/
def State.closeWindows (s : State) : State := allBins.foldl State.expireWindow s

/-- Step 1: the token at position 31 is matched against the end-of-line flag, which is then cleared (R131). -/
def State.reconcile (s : State) : State :=
  let t := s.tokenAt 31
  let flag := s.endFlag
  let s := { s.setToken 31 none with endFlag := false }
  match t, flag with
  | some t, true =>
    ({ s with counters := { s.counters with caught := s.counters.caught + 1 } }.catchOne).makeRing (.caught t)
  | some t, false => { s with counters := { s.counters with missing := s.counters.missing + 1 } }.makeRing (.missing t)
  | none, true => ({ s with counters := { s.counters with phantom := s.counters.phantom + 1 } }.catchOne).makeRing .phantom
  | none, false => s

/-- What stands at a position after every token has moved up one. -/
def shifted (ring : Vector (Option Token) 32) (i : Fin 32) : Option Token :=
  if i.val = 0 then none else ring[i.val - 1]

/-- Step 2: every token moves from its position to the next (R132). -/
def State.shift (s : State) : State := { s with ring := Vector.ofFn (shifted s.ring) }

/-- The content leaves the pocket for the ring: RELEASING, or EMPTY at once with the beam settled clear (R115, R116). -/
def State.releaseToken (s : State) (t : Token) : State :=
  { s.setToken 0 (some t) with pocket := if s.pocketBeam then .releasing s.corner.pocketReleaseTime else .empty }

/-- Step 3: a conveyor in RUNNING or RUN_OUT takes a LOADED or FOREIGN content (R115, R132, R141). -/
def State.releasePocket (s : State) : State :=
  if s.conveyor.carries then
    match s.pocket with
    | .loaded r =>
      { s with counters := { s.counters with handedOff := s.counters.handedOff + 1 } }.releaseToken (Token.ofRecord r)
    | .foreign => { s with counters := { s.counters with foreign := s.counters.foreign + 1 } }.releaseToken Token.foreign
    | .empty | .granted _ _ | .releasing _ | .fault => s
  else s

/-- The bin at whose position a ROUTED token stands and for which it is destined (R133). -/
def State.dueBin (s : State) (p : Position) : Option BinId :=
  match (s.tokenAt p).bind (·.destination) with
  | some b => if (s.bin b).position = p then some b else none
  | none => none

/-- Step 4 at a position: the diverter fires and the window opens, or the token turns STRAY with cause NOT_DIVERTED (R133, R134). -/
def State.divertAt (s : State) (p : Position) : State :=
  match s.dueBin p with
  | some b =>
    if s.conveyor.carries then s.modBin b (fun u => { u with window := true, diverter := true }) else s.strayTurn p .notDiverted
  | none => s

/-- Step 4 over the ring (R133). -/
def State.divert (s : State) : State := allPositions.foldl State.divertAt s

/-- An index advance (R129). -/
def State.advance (s : State) : State := s.pulseDrive.closeWindows.reconcile.shift.releasePocket.divert

/-- The end-of-line beam settles blocked and sets the flag (R136). -/
def State.endBlocked (s : State) : State := { s with endBeam := true, endFlag := true }

/-- CATCH_EMPTIED taken: the count becomes 0 and a CONVEYOR report is made (R140). -/
def State.catchEmptied (s : State) : State := { s with catchCount := 0 }.noteConveyor

/-- The diverter pulse ends (R134). -/
def State.pulseEnds (s : State) (b : BinId) : State := s.modBin b (fun u => { u with diverter := false })

end Sys2Proof.Machine
end

