-- ==== Sys2Proof/Machine/Judgement.lean ====
section
/-! DEFINITION. The Judgement Unit: lookup, the eight checks, what a verdict does, and the code query (chapters 4 and 5). -/

namespace Sys2Proof.Machine

/-! ### Lookup (R71 to R73) -/

/-- The outcome of a lookup (R73). -/
inductive Lookup where
  | excluded
  | found (c : ClassId)
  | unknown
  deriving DecidableEq, Repr

/-- An enabled entry of this kind whose length and range cover a code (R71, R72). -/
def CodeWindow.covers (w : CodeWindow) (k : WindowKind) (c : Code) : Bool :=
  w.enabled && w.kind == k && w.length == c.length && decide (w.low ≤ c.value) && decide (c.value ≤ w.high)

/-- The lookup of a code in a table of windows in entry order (R71, R72, R73). -/
def lookupIn (ws : List CodeWindow) (c : Code) : Lookup :=
  if ws.any (·.covers .excludes c) then .excluded
  else
    match ws.find? (·.covers .includes c) with
    | some w => .found w.cls
    | none => .unknown

/-- The lookup in the Code Window Table as it stands (R74). -/
def State.lookup (s : State) (c : Code) : Lookup := lookupIn s.windows.toList c

/-! ### The checks -/

/-- Step 2: the one good code of a record, or why it has none (R87). -/
def ContainerRecord.goodCode (r : ContainerRecord) : Except Reason Code :=
  if r.conflict then .error .conflict
  else
    match r.code with
    | some c => .ok c
    | none => if r.badReads = 0 then .error .noCode else .error .badCheck

/-- A measurement lies in a window that includes both its ends; an absent one does not (R89). -/
def inWindow (lo hi : Nat) (x : Option Nat) : Bool :=
  match x with
  | some x => decide (lo ≤ x) && decide (x ≤ hi)
  | none => false

/-- Step 5: the weight against the class's weight window (R89). -/
def ClassProfile.weightReason (e : ClassProfile) (w : Nat) : Option Reason :=
  if w < e.weightMin then some .underweight else if e.weightMax < w then some .overweight else none

/-- Step 6: diameter and length against the class's windows (R89). -/
def ClassProfile.shapeFits (e : ClassProfile) (r : ContainerRecord) : Bool :=
  inWindow e.diameterMin e.diameterMax r.diameter && inWindow e.lengthMin e.lengthMax r.length

/-- Steps 4 to 7: the reason of the first that fails (R85, R89, R90). -/
def State.classReason (s : State) (l : Lane) (r : ContainerRecord) (c : ClassId) : Option Reason :=
  let e := s.classAt c
  let u := s.lane l
  let w := (r.weighing.bind Weighing.weight?).getD 0
  if !e.enabled then some .classOff
  else if (e.weightReason w).isSome then e.weightReason w
  else if !e.shapeFits r then some .shape
  else if !u.session.withinCaps c e.deposit u.config.itemCap u.config.valueCap then some .limit
  else none

/-! ### What a verdict does -/

/-- The record of an ACCEPT: class, material and unit value from the class entry, and the destination (R92). -/
def ContainerRecord.accepted (r : ContainerRecord) (c : ClassId) (e : ClassProfile) (b : BinId) : ContainerRecord :=
  { r with
    verdict := some .accept, cls := some c, material := some e.material, unitValue := some e.deposit, destination := some b }

/-- A VOUCHER report waiting at the lane is withdrawn at an ACCEPT (R172). -/
def State.withdrawWaiting (s : State) (l : Lane) : State :=
  if (s.lane l).session.voucherWaiting then s.withdrawVoucher l else s

/-- An ACCEPT verdict (R91, R92). -/
def State.acceptRecord (s : State) (l : Lane) (c : ClassId) (b : BinId) : State :=
  match (s.lane l).record with
  | some r =>
    let r := r.accepted c (s.classAt c) b
    let s := (s.reserve b).modLane l (fun u => { u with record := some r })
    ((s.withdrawWaiting l).makeWhole (r.report .accept (some c))).enterHold l
  | none => s

/-- Steps 4 to 8 with a class found or answered, and the verdict they give (R85, R89 to R93, R98). -/
def State.judgeClass (s : State) (l : Lane) (c : ClassId) : State :=
  match (s.lane l).record with
  | some r =>
    match s.classReason l r c with
    | some reason => s.rejectRecord l reason (some c)
    | none =>
      match s.chooseBin (s.classAt c).material (s.classAt c).preferred with
      | some b => s.acceptRecord l c b
      | none => s.rejectRecord l .noBin (some c)
  | none => s

/-- The lane enters QUERY and a CODE_QUERY report is offered (R88, R96). -/
def State.openQuery (s : State) (l : Lane) (seq : Nat) (code : Code) : State :=
  ((s.modLane l (fun u => { u with query := .waitingRoom seq code })).setLaneState l .query).make (.codeQuery l)

/-- Step 3 and what follows it (R88). -/
def State.judgeCode (s : State) (l : Lane) (r : ContainerRecord) (code : Code) : State :=
  match s.lookup code with
  | .excluded => s.rejectRecord l .excluded none
  | .found c => s.judgeClass l c
  | .unknown => if (s.lane l).config.queryEnabled then s.openQuery l r.seq code else s.rejectRecord l .unknown none

/-- The checks from their first step, at the end of a CONTAINER run (R84 to R88). -/
def State.judge (s : State) (l : Lane) : State :=
  match (s.lane l).record with
  | some r =>
    match r.weighing with
    | some .overweight => s.rejectRecord l .overweight none
    | some .unstable => s.rejectRecord l .unstable none
    | some (.weight _) =>
      match r.goodCode with
      | .error reason => s.rejectRecord l reason none
      | .ok code => s.judgeCode l r code
    | none => s
  | none => s

/-! ### The code query -/

/-- The query timer expires: reject QUERY_TIMEOUT (R99). -/
def State.queryExpires (s : State) (l : Lane) : State :=
  match (s.lane l).query with
  | .opened _ _ _ => (s.endQuery l).rejectRecord l .queryTimeout none
  | _ => s

/-- A matching CODE_ANSWER ends the query and the verdict is made; none stands for REFUSE (R97, R98). -/
def State.answerQuery (s : State) (l : Lane) (answer : Option ClassId) : State :=
  let s := s.endQuery l
  match answer with
  | some c => s.judgeClass l c
  | none => s.rejectRecord l .unknown none

end Sys2Proof.Machine
end

