-- ==== Sys2Proof/Machine/Curtain.lean ====
section
/-! DEFINITION. The Curtain Scanner: what a scan reads, the debounce, runs of blocked beams and the profile, and encoder pulses
(R8, R28 to R39). -/

namespace Sys2Proof.Machine

/-! ### What a scan reads (R28) -/

/-- The raw readings: beam 8k + r is blocked where receiver r sees no light in the lit phase of group k. -/
def scanBeams (x : Scan) : BitVec 32 := ~~~(x.lit3 ++ x.lit2 ++ x.lit1 ++ x.lit0)

/-- A receiver sees light in the dark phase. -/
def scanContaminated (x : Scan) : Bool := x.dark != 0#8

/-! ### Debounce -/

/-- A reading of a beam or line that settles at the second of two readings that disagree with it (R8). -/
def Debounced.read (d : Debounced) (v : Bool) : Debounced :=
  if v = d.settled then ⟨d.settled, false⟩
  else if d.pending then ⟨v, false⟩
  else ⟨d.settled, true⟩

/-- A clean scan's debounce of the 32 beams (R31): a beam that disagrees takes the reading if it was pending, and is pending if it
was not. -/
def Curtain.debounce (c : Curtain) (raw : BitVec 32) : Curtain :=
  let differs := raw ^^^ c.settled
  { c with settled := c.settled ^^^ (differs &&& c.pending), pending := differs &&& ~~~c.pending }

/-! ### Runs (R33) -/

/-- The numbers of the blocked beams, from the lowest up. -/
def blockedBeams (b : BitVec 32) : List Nat := (List.range 32).filter (fun i => b.getLsbD i)

/-- The run from `lo` to `hi`, and those after it: a blocked beam at most two above `hi` continues the run. -/
def runsFrom : Nat → Nat → List Nat → List (Nat × Nat)
  | lo, hi, [] => [(lo, hi)]
  | lo, hi, i :: rest => if i ≤ hi + 2 then runsFrom lo i rest else (lo, hi) :: runsFrom i i rest

/-- The runs of a set of settled blocked beams, each by its lowest and highest beam. -/
def runsOf (b : BitVec 32) : List (Nat × Nat) :=
  match blockedBeams b with
  | [] => []
  | i :: rest => runsFrom i i rest

/-- The extent of a run. -/
def runExtent (r : Nat × Nat) : Nat := r.2 - r.1 + 1

/-! ### The profile -/

/-- DOUBLE or LONG ends the profile with a reject (R18, R37). -/
def State.profileReject (s : State) (l : Lane) (reason : Reason) : State :=
  (s.modLane l (fun u => { u with curtain := { u.curtain with phase := .ended } })).rejectRecord l reason none

/-- The end of the profile: diameter and length are written and the stop count starts (R38). -/
def State.profileEnds (s : State) (l : Lane) : State :=
  let u := s.lane l
  let s := s.modRecord l (fun r =>
    { r with diameter := some u.curtain.extent, length := some (u.curtain.pulses * u.config.beltPitch) })
  s.modLane l (fun u => { u with curtain := { u.curtain with phase := .stopping, stops := 0 } })

/-- A clean scan in PASSING, after its debounce (R36). -/
def State.scanPassing (s : State) (l : Lane) : State :=
  match runsOf (s.lane l).curtain.settled with
  | [] => s.profileEnds l
  | [r] => s.modLane l (fun u => { u with curtain := { u.curtain with extent := max u.curtain.extent (runExtent r) } })
  | _ :: _ :: _ => s.profileReject l .double

/-- A clean scan: the debounce, the stray-light run count to 0, and the profile by its phase (R31 to R39). -/
def State.cleanScan (s : State) (l : Lane) (raw : BitVec 32) : State :=
  let s := s.modLane l (fun u => { u with curtain := { u.curtain.debounce raw with stray := 0 } })
  let c := (s.lane l).curtain
  match c.phase with
  | .waiting =>
    if c.settled = 0 then s
    else (s.modLane l (fun u => { u with curtain := { u.curtain with phase := .passing, pulses := 0 } })).scanPassing l
  | .passing => s.scanPassing l
  | .stopping => if c.settled = 0 then s else s.profileReject l .double
  | .none | .ended => s

/-- A contaminated scan: it counts in the stray-light run, and the third in a row faults an open lane (R30, R32). -/
def State.contaminatedScan (s : State) (l : Lane) : State :=
  let s := s.modLane l (fun u => { u with curtain := { u.curtain with stray := satSucc Config.strayLightScans u.curtain.stray } })
  if (s.lane l).curtain.stray = Config.strayLightScans then s.laneFault l .strayLight else s

/-- The curtain's part of a scan; a CLOSED lane is not scanned (R29). -/
def State.scanCurtain (x : Scan) (l : Lane) (s : State) : State :=
  if (s.lane l).isOpen then
    if scanContaminated x then s.contaminatedScan l else s.cleanScan l (scanBeams x)
  else s

/-- The mouth beam's part of a scan (R8, R28). -/
def State.readMouth (v : Bool) (l : Lane) (s : State) : State :=
  let u := s.lane l
  if u.isOpen then
    let d := u.mouth.read v
    if d.settled = u.mouth.settled then s.modLane l (fun u => { u with mouth := d }) else s.mouthSettles l v
  else s

/-- The voucher button's part of a scan: settling from released to pressed is a press (R8). -/
def State.readButton (v : Bool) (l : Lane) (s : State) : State :=
  let u := s.lane l
  if u.isOpen then
    let d := u.button.read v
    let s := s.modLane l (fun u => { u with button := d })
    if d.settled && !u.button.settled then s.press l else s
  else s

/-- The mouth beam or the button settles at this scan. -/
def LaneUnit.scanSettles (u : LaneUnit) (x : Scan) : Bool :=
  (u.mouth.read x.mouth).settled != u.mouth.settled || (u.button.read x.button).settled != u.button.settled

/-- The three parts of a scan. -/
def scanParts (x : Scan) (l : Lane) : List (State → State) := [State.scanCurtain x l, State.readMouth x.mouth l, State.readButton x.button l]

/-! ### Encoder pulses (R4, R36, R39, R20) -/

/-- A pulse with the belt forward, counted in PASSING and in STOPPING (R36, R39). -/
def State.pulseForward (s : State) (l : Lane) : State :=
  let u := s.lane l
  match u.curtain.phase with
  | .passing =>
    let s := s.modLane l (fun u => { u with curtain := { u.curtain with pulses := u.curtain.pulses + 1 } })
    if u.config.maxLength < (u.curtain.pulses + 1) * u.config.beltPitch then s.profileReject l .long else s
  | .stopping =>
    let s := s.modLane l (fun u => { u with curtain := { u.curtain with stops := u.curtain.stops + 1 } })
    if u.config.stopDistance ≤ u.curtain.stops + 1 then
      (s.modLane l (fun u => { u with curtain := { u.curtain with phase := .ended } })).enterWeigh l
    else s
  | .none | .waiting | .ended => s

/-- A pulse with the belt in reverse counts the return travel (R20). -/
def State.pulseReverse (s : State) (l : Lane) : State :=
  let u := s.lane l
  let s := s.modLane l (fun u => { u with returnTravel := u.returnTravel + 1 })
  if u.config.returnTravel < u.returnTravel + 1 then s.laneFault l .returnLost else s

/-- An encoder pulse; one that arrives while the belt is not driven is ignored (R4). -/
def State.pulse (s : State) (l : Lane) : State :=
  match (s.lane l).belt with
  | .off => s
  | .forward => s.pulseForward l
  | .reverse => s.pulseReverse l

/-- The admit timer expires: a withdrawal with the mouth clear, MOUTH_STUCK with it blocked (R16). -/
def State.admitExpires (s : State) (l : Lane) : State :=
  match (s.lane l).admitTimer with
  | some _ => if (s.lane l).mouth.settled then s.laneFault l .mouthStuck else s.withdraw l
  | none => s

/-- The belt stall timer expires (R4). -/
def State.beltStalls (s : State) (l : Lane) : State :=
  match (s.lane l).stallTimer with
  | some _ => s.laneFault l .beltStall
  | none => s

end Sys2Proof.Machine
end

