-- ==== Sys2Proof/Machine/Link.lean ====
section
/-! DEFINITION. The Link Port: the receiver and its rescan, the intake buffer, supervision, and the transmitter (R181 to R195,
R201). -/

namespace Sys2Proof.Machine

/-! ### Good and bad frames -/

/-- The supervision timer starts, or does not with a supervision_time of 0 (R194). -/
def State.restartSupervision (s : State) : State :=
  { s with link := { s.link with
      supervision := if s.corner.supervisionTime = 0 then none else some s.corner.supervisionTime } }

/-- A good frame on a LOST link restores it: LINK leaves every lane's hold set and a LINK report is made (R195). -/
def State.restoreLink (s : State) : State :=
  match s.link.state with
  | .lost => ({ s with link := { s.link with state := .normal } }.setLinkHold false).noteLink .linkRestored
  | .normal | .expiring => s

/-- The supervision timer has expired: the link is LOST, LINK goes on every open lane, the timer stops and a LINK report is made (R194). -/
def State.loseLink (s : State) : State :=
  ({ s with link := { s.link with state := .lost, supervision := none } }.setLinkHold true).noteLink .linkLost

/-- An expiry that comes together with a good frame is taken before it (R194, note 26). -/
def State.takeExpiry (s : State) : State :=
  match s.link.state with
  | .expiring => s.loseLink
  | .normal | .lost => s

/-- A good frame joins the intake buffer, or is discarded and counted with four waiting (R184). -/
def State.joinIntake (s : State) (f : Frame) : State :=
  if s.link.intake.length < Config.intakeFrames then { s with link := { s.link with intake := s.link.intake ++ [f] } }
  else { s with link := { s.link with overruns := satSucc 65535 s.link.overruns } }.noteLink .overrun

/-- The completion of a good frame: the timer restarts, a LOST link is restored, one lost at this very event too, and the frame goes to
the intake buffer (R182, R184, R194, R195). -/
def State.goodFrame (s : State) (f : Frame) : State := (s.takeExpiry.restartSupervision.restoreLink).joinIntake f

/-- A frame is discarded: counted, with a LINK report; the rescan is the receiver's (R182). -/
def State.countFrameError (s : State) : State :=
  { s with link := { s.link with frameErrors := satSucc 65535 s.link.frameErrors } }.noteLink .frameError

/-! ### The receiver -/

/-- The LEN byte kept, as a number. -/
def Receiver.lenByte (r : Receiver) : Nat := fieldAt r.kept 1 1

/-- The frame that complete kept bytes spell (R181, R201). -/
def frameOfBytes (b : List Byte) : Frame :=
  ⟨(b.drop 2).headD 0#8, (b.drop 3).headD 0#8, (b.drop 4).take (fieldAt b 1 1)⟩

/-- The CHECK that complete kept bytes carry. -/
def checkOfBytes (b : List Byte) : BitVec 16 := BitVec.ofNat 16 (fieldAt b (4 + fieldAt b 1 1) 2)

/-- The CHECK that a frame's own bytes give (R182). -/
def checkOfFrame (f : Frame) : BitVec 16 := frameCheck (BitVec.ofNat 8 f.body.length) f.kind f.tag f.body

/-- What one byte does at the receiver: it is kept or passed over, or completes a good frame, or discards the frame with the bytes
kept of it, this one among them where the receiver kept it (R181, R182). A byte with a framing error is not among them (note 21). -/
inductive ByteStep where
  | kept (r : Receiver)
  | good (f : Frame)
  | bad (bytes : List Byte)
  deriving DecidableEq, Repr

/-- The last CHECK byte: the frame is complete and judged (R182). -/
def judgeBytes (bytes : List Byte) : ByteStep :=
  if checkOfBytes bytes = checkOfFrame (frameOfBytes bytes) then .good (frameOfBytes bytes) else .bad bytes

/-- One byte at the receiver (R181). A byte that arrives with a framing error is not kept, and no rescan takes it (note 21). -/
def Receiver.byte (r : Receiver) (b : Byte) (framingError : Bool) : ByteStep :=
  let kept := r.kept ++ [b]
  match r.phase with
  | .hunt => if b = 0xA5#8 ∧ framingError = false then .kept ⟨.len, [b]⟩ else .kept r
  | .len => if framingError ∨ Config.maxBody < b.toNat then .bad r.kept else .kept ⟨.kind, kept⟩
  | .kind => if framingError then .bad r.kept else .kept ⟨.tag, kept⟩
  | .tag => if framingError then .bad r.kept else .kept ⟨if r.lenByte = 0 then .check else .body, kept⟩
  | .body =>
    if framingError then .bad r.kept else .kept ⟨if kept.length = 4 + r.lenByte then .check else .body, kept⟩
  | .check =>
    if framingError then .bad r.kept else if kept.length = 6 + r.lenByte then judgeBytes kept else .kept ⟨.check, kept⟩

/-- The receiver in HUNT with nothing kept. -/
def Receiver.hunting : Receiver := ⟨.hunt, []⟩

/-- Put the receiver in place. -/
def State.setReceiver (s : State) (r : Receiver) : State := { s with link := { s.link with receiver := r } }

/-- Take bytes one after another; a discard takes the bytes kept after the dropped SYNC again from HUNT, and then those still to
come (R182). Each discard drops a byte, so the first argument, the square of the bytes in play, is never used up. -/
def State.takeBytes : Nat → State → List Byte → State
  | 0, s, _ => s
  | _ + 1, s, [] => s
  | n + 1, s, b :: rest =>
    match s.link.receiver.byte b false with
    | .kept r => (s.setReceiver r).takeBytes n rest
    | .good f => ((s.setReceiver Receiver.hunting).goodFrame f).takeBytes n rest
    | .bad bytes => ((s.setReceiver Receiver.hunting).countFrameError).takeBytes n (bytes.drop 1 ++ rest)

/-- Take bytes with steps enough for every rescan (R182). -/
def State.rescan (s : State) (bytes : List Byte) : State := s.takeBytes ((bytes.length + 2) * (bytes.length + 2)) bytes

/-- The frame in progress is discarded, and the bytes kept after its SYNC are taken again (R182). -/
def State.discardFrame (s : State) (bytes : List Byte) : State :=
  ((s.setReceiver Receiver.hunting).countFrameError).rescan (bytes.drop 1)

/-- One byte from the host line (R181, R182). -/
def State.hostByte (s : State) (b : Byte) (framingError : Bool) : State :=
  match s.link.receiver.byte b framingError with
  | .kept r => s.setReceiver r
  | .good f => (s.setReceiver Receiver.hunting).goodFrame f
  | .bad bytes => s.discardFrame bytes

/-- The bytes of a frame on the line with the CHECK it was received with (11.1). -/
def wireWith (f : Frame) (check : BitVec 16) : List Byte :=
  0xA5#8 :: BitVec.ofNat 8 f.body.length :: f.kind :: f.tag :: (f.body ++ leBytes 2 check.toNat)

/-- The last CHECK byte of the frame in progress, which the row carries, has arrived: good, or discarded with its bytes taken again
(R182). -/
def State.frameCompletes (s : State) (f : Frame) (check : BitVec 16) : State :=
  if f.body.length ≤ Config.maxBody ∧ check = checkOfFrame f then (s.setReceiver Receiver.hunting).goodFrame f
  else s.discardFrame (wireWith f check)

/-- The inter-byte timer expires (R183). -/
def State.interByteExpires (s : State) : State :=
  match s.link.interByteTimer with
  | some _ => s.discardFrame s.link.receiver.kept
  | none => s

/-! ### Supervision -/

/-- The row that waits next completes a good frame: a LOST link would be restored by it (R195). -/
def State.goodFrameNext (s : State) : Bool :=
  let lost := { s with link := { s.link with state := .lost } }
  (match s.pending with
  | .frameReceived f c :: _ => lost.frameCompletes f c
  | .hostByteReceived b e :: _ => lost.hostByte b e
  | .interByteTimeout :: _ => lost.interByteExpires
  | _ => lost).link.state == .normal

/-- The supervision timer expires: LOST, unless supervision_time has become 0 (R194). Whether the expiry of a NORMAL link comes together
with a good frame completed by the next row is open; the two are then one event, that of the next row (note 26). -/
def State.supervisionExpires (s : State) : State :=
  match s.link.supervision with
  | some _ =>
    if s.corner.supervisionTime = 0 then { s with link := { s.link with supervision := none } }
    else if s.link.state = .normal ∧ s.goodFrameNext = true then
      let (c, s) := s.draw
      if c % 2 = 0 then s.loseLink else { s with link := { s.link with state := .expiring } }
    else s.loseLink
  | none => s

/-! ### The transmitter -/

/-- The transmitter ends a frame at its last byte and becomes idle (R187). -/
def State.txEnds (s : State) : State := { s with link := { s.link with transmitter := none } }

/-- The idle transmitter begins the reply, else the head report; a report takes the LOST flag with it (R187, R190, R201). -/
def LinkPort.begin? (k : LinkPort) : Option LinkPort :=
  match k.transmitter, k.replySlot, k.queue with
  | some _, _, _ => none
  | none, some f, _ => some { k with replySlot := none, transmitter := some f }
  | none, none, r :: rest => some { k with queue := rest, transmitter := some (r.frame k.lost), lost := false }
  | none, none, [] => none

/-! ### Held-out reports -/

/-- The oldest held-out report enters the queue and its owner acts; a VOUCHER takes its contents now (R173, R191, R192). -/
def State.heldOutEnters (s : State) : State :=
  match s.link.heldOut with
  | [] => s
  | r :: rest =>
    let s := { s with link := { s.link with heldOut := rest } }
    match r with
    | .voucher v => { s with link := s.link.enqueue (.voucher (s.voucherReport v.lane)) }.voucherQueued v.lane
    | .codeQuery l _ _ => { s with link := s.link.enqueue r }.codeQueryQueued l
    | r => { s with link := s.link.enqueue r }

end Sys2Proof.Machine
end

