-- ==== Sys2Proof/Machine/Operands.lean ====
section
/-! DEFINITION. Reading the raw fields of a command: the range and type checks of the owning rules and of R202, and the values that
fields in range stand for. -/

namespace Sys2Proof.Machine

/-- A number in a range that includes both ends. -/
def inRange (lo hi n : Nat) : Bool := decide (lo ≤ n) && decide (n ≤ hi)

/-- A number below a bound. -/
def finOf (bound n : Nat) : Option (Fin bound) := if h : n < bound then some ⟨n, h⟩ else none

/-- A lane number, 0 to 3. -/
def laneOf (n : Nat) : Option Lane := finOf 4 n

/-- A bin number, 0 to 5. -/
def binOf (n : Nat) : Option BinId := finOf 6 n

/-- A class number, 0 to 15. -/
def classOf (n : Nat) : Option ClassId := finOf 16 n

/-- A flag is 0 or 1 (R202). -/
def isFlag (n : Nat) : Bool := decide (n ≤ 1)

/-- A material (11.2). -/
def materialOf (n : Nat) : Option Material :=
  match n with
  | 0 => some .plastic
  | 1 => some .metal
  | 2 => some .glass
  | 3 => some .carton
  | _ => none

/-- A window kind (11.2). -/
def windowKindOf (n : Nat) : Option WindowKind :=
  match n with
  | 0 => some .includes
  | 1 => some .excludes
  | _ => none

/-- A material set: bits 0 to 3, at least one of them set and no other (R146, R202). -/
def materialsOf (n : Nat) : Option MaterialSet :=
  if inRange 1 15 n then some ⟨n.testBit 0, n.testBit 1, n.testBit 2, n.testBit 3⟩ else none

/-- An optional bin: 0xFF is none, and a number outside 0 to 5 is no value (R76, R202). -/
def preferredBinOf (n : Nat) : Option (Option BinId) := if n = 255 then some none else (binOf n).map some

/-- The answer of a CODE_ANSWER: a class, or REFUSE at 0xFF (R97, R202). -/
def answerOf (n : Nat) : Option (Option ClassId) := if n = 255 then some none else (classOf n).map some

/-! ### SET_WINDOW (R69) -/

/-- The checks of R69 that are not type checks. -/
def windowInRange (f : SetWindowFields) : Bool :=
  isFlag f.enabled && (f.length == 8 || f.length == 13) && decide (f.low < 10 ^ f.length) && decide (f.high < 10 ^ f.length) &&
  decide (f.low ≤ f.high)

/-- The entry number and the entry a SET_WINDOW writes, where every check passes. -/
def windowEntry (f : SetWindowFields) : Option (Fin 64 × CodeWindow) :=
  match finOf 64 f.entry, windowKindOf f.kind, classOf f.cls with
  | some n, some k, some c =>
    if windowInRange f then some (n, ⟨f.enabled == 1, k, f.length, f.low, f.high, c⟩) else none
  | _, _, _ => none

/-! ### SET_CLASS (R76) -/

/-- The numeric windows and the deposit value of R76. -/
def classInRange (f : SetClassFields) : Bool :=
  isFlag f.enabled && decide (f.deposit ≤ 5000) &&
  decide (f.weightMax ≤ 20000) && decide (f.weightMin ≤ f.weightMax) &&
  inRange 1 32 f.diameterMin && inRange 1 32 f.diameterMax && decide (f.diameterMin ≤ f.diameterMax) &&
  decide (f.lengthMax ≤ 400) && decide (f.lengthMin ≤ f.lengthMax)

/-- The class number and the entry a SET_CLASS writes, where every check passes. -/
def classEntry (f : SetClassFields) : Option (ClassId × ClassProfile) :=
  match classOf f.cls, materialOf f.material, preferredBinOf f.preferred with
  | some c, some m, some p =>
    if classInRange f then
      some (c, ⟨f.enabled == 1, m, f.deposit, f.weightMin, f.weightMax, f.diameterMin, f.diameterMax, f.lengthMin, f.lengthMax, p⟩)
    else none
  | _, _, _ => none

/-! ### SET_BIN (R146) -/

/-- The numeric ranges of R146. -/
def binInRange (f : SetBinFields) : Bool :=
  inRange 1 30 f.position && inRange 1 9999 f.capacity && inRange 1 f.capacity f.nearFull && decide (f.interval ≤ 255) &&
  decide (f.fill ≤ f.capacity)

/-! ### SET_LANE (R26) -/

/-- The field ranges of R26's table. -/
def laneInRange (f : SetLaneFields) : Bool :=
  inRange 1 8 f.beltPitch && inRange 10 400 f.stopDistance && inRange 40 400 f.maxLength && inRange 4 64 f.settleCount &&
  inRange 1 4096 f.stabilityLimit && inRange 1 7 f.attempts && decide (f.autoZeroInterval ≤ 600) && decide (f.zeroBand ≤ 200) &&
  isFlag f.queryEnabled && inRange 1 500 f.itemCap && inRange 100 100000 f.valueCap && inRange 1 600 f.standbyTime &&
  decide (f.dormantTime ≤ 3600) && inRange 10 600 f.sessionIdleTime && inRange 200 5000 f.handoffTime &&
  inRange 50 1000 f.returnTravel && decide (-8388608 ≤ f.zero) && decide (f.zero ≤ 8388607) && decide (f.span ≤ 65535)

/-- The lanes a SET_LANE names: one, or all four with 255 (R26). -/
def setLaneTargets (n : Nat) : Option (List Lane) := if n = 255 then some allLanes else (laneOf n).map (fun l => [l])

/-- The configuration a SET_LANE writes. -/
def laneConfigOf (f : SetLaneFields) : LaneConfig where
  beltPitch := f.beltPitch
  stopDistance := f.stopDistance
  maxLength := f.maxLength
  settleCount := f.settleCount
  stabilityLimit := f.stabilityLimit
  attempts := f.attempts
  autoZeroInterval := f.autoZeroInterval
  zeroBand := f.zeroBand
  queryEnabled := f.queryEnabled == 1
  itemCap := f.itemCap
  valueCap := f.valueCap
  standbyTime := f.standbyTime
  dormantTime := f.dormantTime
  sessionIdleTime := f.sessionIdleTime
  handoffTime := f.handoffTime
  returnTravel := f.returnTravel

/-! ### SET_CORNER (R196) -/

/-- The field ranges of R196's table. -/
def cornerInRange (f : SetCornerFields) : Bool :=
  inRange 100 10000 f.queryTimeout && decide (f.supervisionTime ≤ 60) && inRange 100 3000 f.startTime &&
  inRange 200 5000 f.stallTime && inRange 1 120 f.runOutTime && inRange 100 2000 f.pocketReleaseTime && inRange 1 250 f.catchCapacity

/-- The corner configuration a SET_CORNER writes. -/
def cornerConfigOf (f : SetCornerFields) : CornerConfig :=
  ⟨f.queryTimeout, f.supervisionTime, f.startTime, f.stallTime, f.runOutTime, f.pocketReleaseTime, f.catchCapacity⟩

end Sys2Proof.Machine
end

