-- ==== Sys2Proof/Machine/Weigher.lean ====
section
/-! DEFINITION. The Weigher: discards, windows, saturation, stability, the weight, span and drift arithmetic, and the ends of the
four kinds of run (chapter 3). -/

namespace Sys2Proof.Machine

/-! ### Arithmetic -/

/-- The gain as a number (R48). -/
def Gain.factor (g : Gain) : Nat :=
  match g with
  | .g16 => 16
  | .g4 => 4
  | .g1 => 1

/-- The stability limit: floor(D × g / 16), at least 1 (R53). -/
def stabilityLimit (d : Nat) (g : Gain) : Nat := max 1 (d * g.factor / 16)

/-- A sample at an end value (R52). -/
def atEnd (x : Int) : Bool := x == 32767 || x == -32768

/-- The greatest of the samples. -/
def maxSample (l : List Int) : Int := l.foldl max (-32768)

/-- The least of the samples. -/
def minSample (l : List Int) : Int := l.foldl min 32767

/-- The spread of a window (R53). -/
def spreadOf (l : List Int) : Int := maxSample l - minSample l

/-- The normalised count: the sum of the samples times 16 / g (R54). -/
def normalised (l : List Int) (g : Gain) : Int := l.sum * (16 / g.factor : Nat)

/-- The weight in decigrams of a net count (R55). -/
def weightOf (n : Int) (k : Nat) : Nat :=
  if n ≤ 0 then 0 else min 20000 ((n.toNat * k + 8388608) / 16777216)

/-- The span of a positive net count under reference mass m (R60). -/
def spanOf (m n : Nat) : Nat := (m * 16777216 + n / 2) / n

/-- The drift in decigrams of a net count (R64). -/
def driftOf (n : Int) (k : Nat) : Nat := (n.natAbs * k + 8388608) / 16777216

/-! ### Ends of runs -/

/-- A CONTAINER run ends with a result, the record takes it with the gain, and the record is judged (R56). -/
def State.containerDone (s : State) (l : Lane) (w : Weighing) (g : Gain) : State :=
  let s := s.modLane l LaneUnit.endRun
  (s.modRecord l (fun r => { r with weighing := some w, gain := some g })).judge l

/-- The CALIBRATION report of a lane, with its Z and K as they stand (R62). -/
def State.makeCalibration (s : State) (l : Lane) (op : CalOperation) (o : CalOutcome) (drift : Option Nat) : State :=
  s.makeWhole (.calibration ⟨l, op, o, (s.lane l).zero, (s.lane l).span, drift⟩)

/-- A ZERO or SPAN run ends: its report is made and calibration running is cleared (R61). -/
def State.calibrationDone (s : State) (l : Lane) (op : CalOperation) (o : CalOutcome) : State :=
  (s.modLane l (fun u => { u.endRun with calRunning := false })).makeCalibration l op o none

/-- A steady window of a SPAN run with a net count (R60). -/
def State.spanSteady (s : State) (l : Lane) (n : Int) (mass : Nat) : State :=
  if n ≤ 0 then s.calibrationDone l .span .spanRange
  else
    let k := spanOf mass n.toNat
    if 1 ≤ k ∧ k ≤ 65535 then (s.modLane l (fun u => { u with span := k })).calibrationDone l .span .done
    else s.calibrationDone l .span .spanRange

/-- A steady window of an AUTO_ZERO run (R64). -/
def State.autoZeroSteady (s : State) (l : Lane) (count : Int) : State :=
  let u := s.lane l
  let d := driftOf (count - u.zero) u.span
  let s := s.modLane l LaneUnit.endRun
  if d ≤ u.config.zeroBand then s.modLane l (fun u => { u with zero := count })
  else s.makeCalibration l .autoZero .zeroDrift (some d)

/-- A steady window finishes its run (R51, R54). -/
def State.steadyWindow (s : State) (l : Lane) : State :=
  let u := s.lane l
  let count := normalised u.weigher.samples u.weigher.gain
  match u.weigher.run with
  | .container => s.containerDone l (.weight (weightOf (count - u.zero) u.span)) u.weigher.gain
  | .zero => (s.modLane l (fun u => { u with zero := count })).calibrationDone l .zero .done
  | .span => s.spanSteady l (count - u.zero) (u.weigher.refMass.getD 0)
  | .autoZero => s.autoZeroSteady l count
  | .none => s

/-- A run whose attempts are spent ends UNSTABLE, or with no effect for AUTO_ZERO (R53, R56, R59, R60, R64). -/
def State.unstableRun (s : State) (l : Lane) : State :=
  match (s.lane l).weigher.run with
  | .container => s.containerDone l .unstable (s.lane l).weigher.gain
  | .zero => s.calibrationDone l .zero .unstable
  | .span => s.calibrationDone l .span .unstable
  | .autoZero => s.modLane l LaneUnit.endRun
  | .none => s

/-- A discard of settle_count at a gain follows, and then a fresh window (R50, R52, R53). -/
def LaneUnit.discardAgain (u : LaneUnit) (g : Gain) : LaneUnit :=
  { u with weigher :=
      { u.weigher with
        phase := .discard, gain := g, discardRemaining := u.config.settleCount, coldDiscard := false, samples := [] } }

/-- An unstable window costs an attempt (R53). -/
def State.unstableWindow (s : State) (l : Lane) : State :=
  let s := s.modLane l (fun u => { u with weigher := { u.weigher with attempts := u.weigher.attempts + 1 } })
  let u := s.lane l
  if u.config.attempts ≤ u.weigher.attempts then s.unstableRun l
  else s.modLane l (fun u => u.discardAgain u.weigher.gain)

/-- The gain below, if any (R52). -/
def Gain.below (g : Gain) : Option Gain :=
  match g with
  | .g16 => some .g4
  | .g4 => some .g1
  | .g1 => none

/-- A CONTAINER run saturated at gain 1 (R52, R56). -/
def State.containerSaturated (s : State) (l : Lane) : State :=
  if (s.lane l).weigher.samples.any (· == -32768) then s.laneFault l .scaleNegative else s.containerDone l .overweight .g1

/-- A saturated window (R52). -/
def State.saturatedWindow (s : State) (l : Lane) : State :=
  let w := (s.lane l).weigher
  match w.run with
  | .container =>
    match w.gain.below with
    | some g => s.modLane l (fun u => u.discardAgain g)
    | none => s.containerSaturated l
  | .span =>
    match w.gain.below with
    | some g => s.modLane l (fun u => u.discardAgain g)
    | none => s.calibrationDone l .span .scaleRange
  | .zero => s.calibrationDone l .zero .scaleRange
  | .autoZero => s.modLane l LaneUnit.endRun
  | .none => s

/-- A complete window is tested: saturation, then stability (R51). -/
def State.testWindow (s : State) (l : Lane) : State :=
  let u := s.lane l
  let w := u.weigher
  if w.samples.any atEnd then s.saturatedWindow l
  else if spreadOf w.samples ≤ stabilityLimit u.config.stabilityLimit w.gain then s.steadyWindow l
  else s.unstableWindow l

/-- A sample in the discard phase (R50). -/
def LaneUnit.discardSample (u : LaneUnit) : LaneUnit :=
  let w := u.weigher
  if w.discardRemaining ≤ 1 then
    { u with
      coldStart := u.coldStart && !w.coldDiscard
      weigher := { w with phase := .window, discardRemaining := 0, coldDiscard := false, samples := [] } }
  else { u with weigher := { w with discardRemaining := w.discardRemaining - 1 } }

/-- A sample in the window phase (R51). -/
def State.windowSample (s : State) (l : Lane) (x : Int) : State :=
  let s := s.modLane l (fun u => { u with weigher := { u.weigher with samples := u.weigher.samples ++ [x] } })
  if Config.windowSamples ≤ (s.lane l).weigher.samples.length then s.testWindow l else s

/-- A converter sample, used only while a run discards or gathers; a converter that is off delivers none (R48). -/
def State.sample (s : State) (l : Lane) (x : Int) : State :=
  if (s.lane l).converterOn then
    match (s.lane l).weigher.phase with
    | .idle => s
    | .discard => s.modLane l LaneUnit.discardSample
    | .window => s.windowSample l x
  else s

/-- The auto-zero timer expires (R63). -/
def State.autoZeroExpires (s : State) (l : Lane) : State :=
  match (s.lane l).autoZeroTimer with
  | some _ => s.modLane l (fun u => u.startRun .autoZero none)
  | none => s

/-- ZERO or SPAN is taken: calibration running is set, a STANDBY lane enters READY, an AUTO_ZERO run is abandoned and the run
starts (R58). -/
def State.startCalibration (s : State) (l : Lane) (kind : RunKind) (mass : Option Nat) : State :=
  (s.wake l).modLane l (fun u => { u.abandonAutoZero.startRun kind mass with calRunning := true })

end Sys2Proof.Machine
end

