-- ==== Sys2Proof/Machine/Commands.lean ====
section
/-! DEFINITION. The Command Processor: what the taking of each command does, LEN check, range and state checks, effect and reply
(R185, R186), RESTART (R198, R199), and the taking of a frame. -/

namespace Sys2Proof.Machine

/-- A command is taken: BAD_LENGTH unless LEN is the kind's or variant's, else the outcome of the owning rule's checks; a refused
command changes nothing but the reply slot (R185, R186). -/
def State.command (s : State) (h : CmdHead) (kind : Byte) (len : Nat) (r : Except Result State) : State :=
  if h.len = len then
    match r with
    | .ok s' => s'.answer kind h.tag .ok
    | .error e => s.answer kind h.tag e
  else s.answer kind h.tag .badLength

/-- A QUERY is taken: OK with its subject's data, or refused (R197, R204). -/
def State.queryCommand (s : State) (h : CmdHead) (len : Nat) (data : Except Result (List Byte)) : State :=
  if h.len = len then
    match data with
    | .ok d => s.answerWith 0x0E#8 h.tag .ok d
    | .error e => s.answer 0x0E#8 h.tag e
  else s.answer 0x0E#8 h.tag .badLength

/-! ### Tables and configuration -/

def State.checkSetWindow (s : State) (f : SetWindowFields) : Except Result State :=
  match windowEntry f with
  | some (n, w) => .ok { s with windows := s.windows.set n w }
  | none => .error .badValue

/-- SET_WINDOW (R69). -/
def State.cmdSetWindow (h : CmdHead) (f : SetWindowFields) (s : State) : State := s.command h 0x01#8 17 (s.checkSetWindow f)

def State.checkSetClass (s : State) (f : SetClassFields) : Except Result State :=
  match classEntry f with
  | some (c, e) => .ok { s with classes := s.classes.set c e }
  | none => .error .badValue

/-- SET_CLASS (R76). -/
def State.cmdSetClass (h : CmdHead) (f : SetClassFields) (s : State) : State := s.command h 0x02#8 16 (s.checkSetClass f)

/-- Another configured bin holds the position (R146). -/
def State.positionTaken (s : State) (b : BinId) (p : Nat) : Bool :=
  allBins.any (fun b' => b' != b && (s.bin b').configured && (s.bin b').position.val == p)

/-- SET_BIN is taken in UNCONFIGURED, ABSENT and SERVICE (R146). -/
def BinState.takesSetBin (t : BinState) : Bool :=
  match t with
  | .unconfigured | .absent | .service => true
  | _ => false

def State.checkSetBin (s : State) (f : SetBinFields) : Except Result State :=
  match binOf f.bin, finOf 32 f.position, materialsOf f.materials with
  | some b, some p, some m =>
    if binInRange f && !s.positionTaken b f.position then
      if (s.bin b).state.takesSetBin then .ok (s.writeBin b p m f.capacity f.nearFull f.interval f.fill) else .error .binInUse
    else .error .badValue
  | _, _, _ => .error .badValue

/-- SET_BIN (R146). -/
def State.cmdSetBin (h : CmdHead) (f : SetBinFields) (s : State) : State := s.command h 0x03#8 10 (s.checkSetBin f)

/-- A lane's configuration, Z and K written (R26). -/
def State.writeLane (f : SetLaneFields) (s : State) (l : Lane) : State :=
  s.modLane l (fun u => { u with config := laneConfigOf f, zero := f.zero, span := f.span })

def State.checkSetLane (s : State) (f : SetLaneFields) : Except Result State :=
  match setLaneTargets f.lane with
  | some ls =>
    if laneInRange f then
      if ls.all (fun l => !(s.lane l).isOpen) then .ok (ls.foldl (State.writeLane f) s) else .error .wrongState
    else .error .badValue
  | none => .error .badValue

/-- SET_LANE (R26). -/
def State.cmdSetLane (h : CmdHead) (f : SetLaneFields) (s : State) : State := s.command h 0x04#8 36 (s.checkSetLane f)

/-- The corner configuration written, with the tray's fullness evaluated again (R139, R196). -/
def State.writeCorner (s : State) (c : CornerConfig) : State :=
  let s' := { s with corner := c }
  if !s.trayFull && s'.trayFull then s'.noteConveyor else s'

def State.checkSetCorner (s : State) (f : SetCornerFields) : Except Result State :=
  if cornerInRange f then .ok (s.writeCorner (cornerConfigOf f)) else .error .badValue

/-- SET_CORNER (R196). -/
def State.cmdSetCorner (h : CmdHead) (f : SetCornerFields) (s : State) : State := s.command h 0x05#8 11 (s.checkSetCorner f)

/-! ### Lanes -/

def State.checkOpen (s : State) (lane : Nat) : Except Result State :=
  match laneOf lane with
  | some l =>
    if (s.lane l).isOpen then .ok s
    else if (s.lane l).span = 0 then .error .notCalibrated
    else if !s.anyClassEnabled then .error .noClasses
    else .ok (s.openUp l)
  | none => .error .badValue

/-- OPEN_LANE (R12). -/
def State.cmdOpenLane (h : CmdHead) (lane : Nat) (s : State) : State := s.command h 0x06#8 2 (s.checkOpen lane)

def State.checkClose (s : State) (lane : Nat) : Except Result State :=
  match laneOf lane with
  | some l => if (s.lane l).isOpen then .ok (s.setClosePending l) else .ok s
  | none => .error .badValue

/-- CLOSE_LANE (R13). -/
def State.cmdCloseLane (h : CmdHead) (lane : Nat) (s : State) : State := s.command h 0x06#8 2 (s.checkClose lane)

/-- ZERO and SPAN are taken on a READY or STANDBY lane with calibration running clear (R58). -/
def LaneUnit.takesCalibration (u : LaneUnit) : Bool :=
  (u.state == .ready || u.state == .standby) && !u.calRunning

def State.checkCalibrate (s : State) (lane : Nat) (kind : RunKind) (mass : Option Nat) : Except Result State :=
  match laneOf lane with
  | some l => if (s.lane l).takesCalibration then .ok (s.startCalibration l kind mass) else .error .laneBusy
  | none => .error .badValue

/-- ZERO (R58). -/
def State.cmdZero (h : CmdHead) (lane : Nat) (s : State) : State := s.command h 0x07#8 1 (s.checkCalibrate lane .zero none)

def State.checkSpan (s : State) (lane mass : Nat) : Except Result State :=
  if inRange 100 20000 mass then s.checkCalibrate lane .span (some mass) else .error .badValue

/-- SPAN (R58). -/
def State.cmdSpan (h : CmdHead) (lane mass : Nat) (s : State) : State := s.command h 0x08#8 3 (s.checkSpan lane mass)

def State.checkAnswer (s : State) (lane seq answer : Nat) : Except Result State :=
  match laneOf lane, answerOf answer with
  | some l, some a =>
    if seq = 0 then .error .badValue
    else
      match (s.lane l).query.subject with
      | some (seq', _) => if seq' = seq then .ok (s.answerQuery l a) else .error .late
      | none => .error .late
  | _, _ => .error .badValue

/-- CODE_ANSWER (R97). -/
def State.cmdCodeAnswer (h : CmdHead) (lane seq answer : Nat) (s : State) : State :=
  s.command h 0x09#8 4 (s.checkAnswer lane seq answer)

/-! ### CLEAR of a lane (R22) -/

/-- CLEAR of a lane is taken in FAULT, QUERY or HOLD (R22). -/
def LaneState.takesClear (t : LaneState) : Bool :=
  match t with
  | .fault | .query | .hold => true
  | _ => false

/-- A CLEAR in QUERY ends the query, and in HOLD removes the request (R22, R100, R105). -/
def State.leaveForClear (s : State) (l : Lane) : State :=
  match (s.lane l).state with
  | .query => s.endQuery l
  | .hold => s.dropRequest l
  | _ => s

def State.checkRetry (s : State) (lane : Nat) : Except Result State :=
  match laneOf lane with
  | some l =>
    let u := s.lane l
    if u.state == .fault && u.holdsAccept && !u.mouth.settled then .ok (s.enterHold l) else .error .wrongState
  | none => .error .badValue

/-- CLEAR lane RETRY (R22). -/
def State.cmdRetry (h : CmdHead) (lane : Nat) (s : State) : State := s.command h 0x0C#8 3 (s.checkRetry lane)

/-- A verdict that is a reject already. -/
def Verdict.isReject (v : Option Verdict) : Bool :=
  match v with
  | some (.reject _) => true
  | _ => false

/-- CLEARED is written over no verdict or ACCEPT, and a reject is kept without a report; the lane enters RETURN (R22). -/
def State.clearReturn (s : State) (l : Lane) (r : ContainerRecord) : State :=
  let s := s.leaveForClear l
  if Verdict.isReject r.verdict then s.enterReturn l
  else s.rejectRecord l .cleared (if r.verdict = some .accept then r.cls else none)

def State.checkReturn (s : State) (lane : Nat) : Except Result State :=
  match laneOf lane with
  | some l =>
    match (s.lane l).record with
    | some r => if (s.lane l).state.takesClear then .ok (s.clearReturn l r) else .error .wrongState
    | none => .error .wrongState
  | none => .error .badValue

/-- CLEAR lane RETURN (R22). -/
def State.cmdReturn (h : CmdHead) (lane : Nat) (s : State) : State := s.command h 0x0C#8 3 (s.checkReturn lane)

/-- The record is dropped without credit and the lane enters READY (R22). -/
def State.discardRecord (s : State) (l : Lane) : State := ((s.leaveForClear l).dropRecord l).enterReady l

def State.checkDiscard (s : State) (lane : Nat) : Except Result State :=
  match laneOf lane with
  | some l =>
    let u := s.lane l
    if u.state.takesClear && !u.mouth.settled && u.curtain.settled == 0 then .ok (s.discardRecord l) else .error .wrongState
  | none => .error .badValue

/-- CLEAR lane DISCARD (R22). -/
def State.cmdDiscard (h : CmdHead) (lane : Nat) (s : State) : State := s.command h 0x0C#8 3 (s.checkDiscard lane)

/-! ### Bins -/

/-- BIN_SERVICE begin is taken in OPEN, COMPACT_PENDING, FULL and FAULT (R160). -/
def BinState.takesService (t : BinState) : Bool :=
  match t with
  | .opened | .compactPending | .full | .fault => true
  | _ => false

def State.checkServiceBegin (s : State) (bin : Nat) : Except Result State :=
  match binOf bin with
  | some b => if (s.bin b).state.takesService then .ok (s.serviceBegins b) else .error .wrongState
  | none => .error .badValue

/-- BIN_SERVICE begin (R160). -/
def State.cmdServiceBegin (h : CmdHead) (bin : Nat) (s : State) : State := s.command h 0x0A#8 4 (s.checkServiceBegin bin)

def State.checkServiceEnd (s : State) (bin fill : Nat) : Except Result State :=
  match binOf bin with
  | some b =>
    if (s.bin b).capacity < fill then .error .badValue
    else if (s.bin b).state = .service then .ok (s.serviceEnds b fill)
    else .error .wrongState
  | none => .error .badValue

/-- BIN_SERVICE end (R161). -/
def State.cmdServiceEnd (h : CmdHead) (bin fill : Nat) (s : State) : State := s.command h 0x0A#8 4 (s.checkServiceEnd bin fill)

def State.checkClearBin (s : State) (bin : Nat) : Except Result State :=
  match binOf bin with
  | some b => if (s.bin b).state = .fault then .ok (s.clearBin b) else .error .wrongState
  | none => .error .badValue

/-- CLEAR bin (R162). -/
def State.cmdClearBin (h : CmdHead) (bin : Nat) (s : State) : State := s.command h 0x0C#8 2 (s.checkClearBin bin)

/-! ### Conveyor, pocket and tray -/

/-- CATCH_EMPTIED (R140). -/
def State.cmdCatchEmptied (h : CmdHead) (s : State) : State := s.command h 0x0B#8 0 (.ok s.catchEmptied)

def State.checkClearConveyor (s : State) : Except Result State :=
  if s.conveyor = .fault then .ok (s.setConveyor .stopped) else .error .wrongState

/-- CLEAR conveyor (R126). -/
def State.cmdClearConveyor (h : CmdHead) (s : State) : State := s.command h 0x0C#8 1 s.checkClearConveyor

/-- CLEAR pocket is taken in FAULT and FOREIGN with the beam settled clear (R117). -/
def State.checkClearPocket (s : State) : Except Result State :=
  if (s.pocket == .fault || s.pocket == .foreign) && !s.pocketBeam then .ok s.clearPocket else .error .wrongState

/-- CLEAR pocket (R117). -/
def State.cmdClearPocket (h : CmdHead) (s : State) : State := s.command h 0x0C#8 1 s.checkClearPocket

/-- HALT on (R125). -/
def State.cmdHaltOn (h : CmdHead) (s : State) : State := s.command h 0x0D#8 1 (.ok (s.setConveyor .halted))

/-- HALT off (R125). -/
def State.cmdHaltOff (h : CmdHead) (s : State) : State := s.command h 0x0D#8 1 (.ok s.haltOff)

/-! ### QUERY (R197, R206) -/

/-- The data of a lane subject, a bin subject or a session subject whose number is in range (R197). -/
def laneSubject (lane : Nat) (data : Lane → List Byte) : Except Result (List Byte) :=
  match laneOf lane with
  | some l => .ok (data l)
  | none => .error .badValue

def binSubject (bin : Nat) (data : BinId → List Byte) : Except Result (List Byte) :=
  match binOf bin with
  | some b => .ok (data b)
  | none => .error .badValue

/-- QUERY lane (R197). -/
def State.cmdQueryLane (h : CmdHead) (lane : Nat) (s : State) : State := s.queryCommand h 2 (laneSubject lane s.laneData)

/-- QUERY bin (R197). -/
def State.cmdQueryBin (h : CmdHead) (bin : Nat) (s : State) : State := s.queryCommand h 2 (binSubject bin s.binData)

/-- QUERY ring (R197). -/
def State.cmdQueryRing (h : CmdHead) (s : State) : State := s.queryCommand h 1 (.ok s.ringData)

/-- QUERY counters (R197). -/
def State.cmdQueryCounters (h : CmdHead) (s : State) : State := s.queryCommand h 1 (.ok s.counterData)

/-- QUERY session (R179, R197). -/
def State.cmdQuerySession (h : CmdHead) (lane : Nat) (s : State) : State := s.queryCommand h 2 (laneSubject lane s.sessionData)

/-! ### RESTART (R198, R199) -/

/-- A lane after RESTART (R27, R40, R47, R67, R102, R180). The settled mouth beam and voucher button, which no rule names here, are clear and
released as after pin reset (note 9). -/
def LaneUnit.restarted (u : LaneUnit) : LaneUnit :=
  { LaneUnit.reset with
    config := u.config, zero := u.zero, span := u.span, nextSeq := u.nextSeq, session := Session.none u.session.number }

/-- The state of a bin after RESTART (R164). -/
def BinState.restarted (t : BinState) : BinState :=
  match t with
  | .service => .service
  | .unconfigured => .unconfigured
  | _ => .absent

/-- A bin after RESTART: its configuration, fill and removal fill are kept, fill held is set where it is ABSENT, and its monitor
starts from UNSEATED over the contacts as they stand (R144, R148, R164). -/
def BinUnit.restarted (u : BinUnit) : BinUnit :=
  { BinUnit.reset with
    position := u.position, materials := u.materials, capacity := u.capacity, nearFull := u.nearFull, interval := u.interval,
    state := u.state.restarted, fill := u.fill, fillHeld := if u.state.restarted = .absent then true else u.fillHeld,
    removalFill := u.removalFill, contacts := u.contacts }

/-- The report is the CODE_QUERY of the query in progress at its lane (R95, R96). -/
def State.asks (s : State) (r : Report) : Bool :=
  match r with
  | .codeQuery l seq code => (s.lane l).query.subject == some (seq, code)
  | _ => false

/-- The CODE_QUERY reports in the queue whose queries a RESTART ends, in their order; of equal ones the last, which is the query's. -/
def State.queriesQueued (s : State) : List Report := (s.link.queue.filter s.asks).dedup

/-- What a RESTART leaves in the Report Queue. R100 says of a RESTART with force that the CODE_QUERY of a query it ends stays there and is
sent, R191 and R199 that a RESTART empties the queue; which of the two happens is a free choice (note 20). -/
def State.keptAtRestart (s : State) : List Report × State :=
  if s.queriesQueued.isEmpty then ([], s)
  else (if s.draw.1 % 2 = 0 then [] else s.queriesQueued, s.draw.2)

/-- The Link Port at a taken RESTART: the intake buffer and the held-out reports are emptied, and the queue but for the reports that stay;
LOST and the counts are cleared; the receiver, the transmitter, the link state and supervision are kept (R100, R199). -/
def LinkPort.restarted (kept : List Report) (k : LinkPort) : LinkPort :=
  { k with intake := [], queue := kept, heldOut := [], lost := false, frameErrors := 0, overruns := 0 }

/-- Every block at RESTART (R27, R67, R102, R120, R144, R164, R180, R199). -/
def State.restartBlocks (s : State) : State :=
  { s.keptAtRestart.2 with
    lanes := s.lanes.map LaneUnit.restarted, requests := [], pocket := .empty, pocketBeam := false, conveyor := .stopped,
    ring := Vector.replicate 32 none, endFlag := false, endBeam := false, catchCount := 0, counters := FlowCounters.zero,
    bins := s.bins.map BinUnit.restarted, link := s.link.restarted s.keptAtRestart.1, outbox := [] }

/-- Each lane, bin and conveyor whose state the RESTART changes makes its report (R199). -/
def State.noteRestart (before s : State) : State :=
  let s := allLanes.foldl (fun s l => if (before.lane l).state = (s.lane l).state then s else s.noteLane l) s
  let s := allBins.foldl (fun s b => if (before.bin b).state = (s.bin b).state then s else s.noteBin b .state) s
  if before.conveyor = s.conveyor then s else s.noteConveyor

def State.checkRestart (s : State) (force : Nat) : Except Result State :=
  if isFlag force then
    if force = 0 ∧ s.restartBarred = true then .error .workPresent else .ok (State.noteRestart s s.restartBlocks)
  else .error .badValue

/-- RESTART (R198). -/
def State.cmdRestart (h : CmdHead) (force : Nat) (s : State) : State := s.command h 0x0F#8 1 (s.checkRestart force)

/-! ### Taking a frame (R185) -/

/-- A command is taken: the effect of each row that is one. -/
def runCommand (i : Instr) (s : State) : State :=
  match i with
  | .setWindow h f => s.cmdSetWindow h f
  | .setClass h f => s.cmdSetClass h f
  | .setBin h f => s.cmdSetBin h f
  | .setLane h f => s.cmdSetLane h f
  | .setCorner h f => s.cmdSetCorner h f
  | .openLane h lane => s.cmdOpenLane h lane
  | .closeLane h lane => s.cmdCloseLane h lane
  | .zero h lane => s.cmdZero h lane
  | .span h lane mass => s.cmdSpan h lane mass
  | .codeAnswer h lane seq answer => s.cmdCodeAnswer h lane seq answer
  | .binServiceBegin h bin _ => s.cmdServiceBegin h bin
  | .binServiceEnd h bin fill => s.cmdServiceEnd h bin fill
  | .catchEmptied h => s.cmdCatchEmptied h
  | .clearLaneRetry h lane => s.cmdRetry h lane
  | .clearLaneReturn h lane => s.cmdReturn h lane
  | .clearLaneDiscard h lane => s.cmdDiscard h lane
  | .clearConveyor h => s.cmdClearConveyor h
  | .clearPocket h => s.cmdClearPocket h
  | .clearBin h bin => s.cmdClearBin h bin
  | .haltOn h => s.cmdHaltOn h
  | .haltOff h => s.cmdHaltOff h
  | .queryLane h lane => s.cmdQueryLane h lane
  | .queryBin h bin => s.cmdQueryBin h bin
  | .queryRing h => s.cmdQueryRing h
  | .queryCounters h => s.cmdQueryCounters h
  | .querySession h lane => s.cmdQuerySession h lane
  | .restart h force => s.cmdRestart h force
  | .unknownKindCommand f => s.answer f.kind f.tag .unknownKind
  | _ => s

/-- A frame is taken: checked, applied and answered at one event (R185). -/
def State.takeFrame (s : State) (f : Frame) : State :=
  match commandOfFrame f with
  | .refused r => s.answer f.kind f.tag r
  | .command i => runCommand i s

/-- The frame at the head of the intake buffer is taken. -/
def State.takeHead (s : State) : State :=
  match s.link.intake with
  | f :: rest => ({ s with link := { s.link with intake := rest } }).takeFrame f
  | [] => s

end Sys2Proof.Machine
end

