-- ==== Sys2Proof/Machine/Settle.lean ====
section
/-! DEFINITION. What happens of itself at an event: the rules that act "at the first event after which" their condition holds, taken
one at a time until none is due, and the shutter's deferral at the end of the event (note 2). -/

namespace Sys2Proof.Machine

/-! ### The rules, each none where it is not due -/

/-- A held-out report enters when an entry has left the queue (R192). -/
def State.dueHeldOut (s : State) : Option State :=
  if s.link.hasRoom && !s.link.heldOut.isEmpty then some s.heldOutEnters else none

/-- The first lane in number order for which a condition holds. -/
def State.findLane (s : State) (p : LaneUnit → Bool) : Option Lane := allLanes.find? (fun l => p (s.lane l))

/-- An open lane whose hold cause CONVEYOR differs from its condition takes or loses it (R10, R127). -/
def State.dueConveyorHold (s : State) : Option State :=
  (s.findLane (fun u => u.isOpen && u.holds.conveyor != s.conveyorHeld)).map
    (fun l => s.setHolds l { (s.lane l).holds with conveyor := s.conveyorHeld })

/-- A STANDBY or DORMANT lane whose mouth is blocked and whose hold set is empty wakes (R9, R24). -/
def State.dueWake (s : State) : Option State := (s.findLane LaneUnit.wakesUnheld).map s.enterReady

/-- A COMPACT_PENDING bin whose reserved is 0 enters COMPACTING (R156). -/
def State.dueCompacting (s : State) : Option State :=
  (allBins.find? (fun b => (s.bin b).compactionDue)).map s.startCompacting

/-- A CLOSING session whose lane holds no record with ACCEPT offers its voucher (R171). -/
def State.dueVoucher (s : State) : Option State := (s.findLane LaneUnit.voucherDue).map s.offerVoucher

/-- The pocket is granted to the oldest request (R108). -/
def State.dueGrant (s : State) : Option State := if s.mayGrant && !s.requests.isEmpty then some s.grant else none

/-- A lane with close-pending enters CLOSED (R14). -/
def State.dueClosed (s : State) : Option State := (s.findLane LaneUnit.closes).map s.enterClosed

/-- A READY lane admits (R9). -/
def State.dueAdmission (s : State) : Option State := (s.findLane LaneUnit.admits).map s.enterAdmit

/-- A STOPPED conveyor starts, a RUNNING one runs out and a RUN_OUT one resumes, as work is present (R122, R124). -/
def State.dueConveyor (s : State) : Option State :=
  match s.conveyor with
  | .stopped => if s.workPresent then some s.conveyorStarts else none
  | .running _ => if s.workPresent then none else some s.conveyorRunsOut
  | .runOut _ _ => if s.workPresent then some s.conveyorResumes else none
  | .starting _ | .halted | .fault => none

/-- The frame's command may make reports: any but a refused one and QUERY. -/
def reportingFrame (f : Frame) : Bool :=
  match commandOfFrame f with
  | .command _ => f.kind != 0x0E#8
  | .refused _ => false

/-- A command that may make reports is still to be taken at this event: the head of the buffer while the reply slot is empty, and one more
where the transmitter is idle and can begin the reply before it (R185, R187). -/
def State.takesReporting (s : State) : Bool :=
  (s.link.intake.take (s.link.replySlot.isNone.toNat + s.link.transmitter.isNone.toNat)).any reportingFrame

/-- The Command Processor takes the frame at the head of the intake buffer while the reply slot is empty (R185). -/
def State.dueTake (s : State) : Option State :=
  if s.link.replySlot.isNone && !s.link.intake.isEmpty then some s.takeHead else none

/-- The idle transmitter begins a frame (R187). -/
def State.dueBegin (s : State) : Option State := s.link.begin?.map (fun k => { s with link := k })

/-- On the way to the next command: it is taken, or else the reply before it begins to be sent (R185, R187). -/
def State.towardsTaking (s : State) : State := (s.dueTake <|> s.dueBegin).getD s

/-- Some of the reports made are offered before the next command is taken. A VOUCHER among them has its effects first (R173, R185). -/
def State.offerBeforeTaking (s : State) : State :=
  if (s.parted Made.any).1.any Made.isVoucher then s.offerSome else s.offerSome.towardsTaking

/-- The reports made are offered to the Report Queue (R188). Where more may come at this event, of a command still to be taken or of a
VOUCHER's entry, some of these can be put off (note 24). -/
def State.dueFlush (s : State) : Option State :=
  if s.outbox.isEmpty then none
  else if s.takesReporting then some s.offerBeforeTaking
  else if s.outbox.any Made.isVoucher then some s.offerVouchers
  else some s.flush

/-- The rules of the corner, in the order in which they are tried. -/
def cornerRules : List (State → Option State) :=
  [State.dueHeldOut, State.dueConveyorHold, State.dueWake, State.dueCompacting, State.dueVoucher, State.dueGrant,
   State.dueClosed, State.dueAdmission, State.dueConveyor]

/-- All rules in the order in which they are tried. A command is taken only when the corner is at rest, and a transmission begins
last (R185, R187). -/
def rules : List (State → Option State) := cornerRules ++ [State.dueFlush, State.dueTake, State.dueBegin]

/-- The first rule of the corner that is due, taken; none when none is. -/
def fireCorner (s : State) : Option State := cornerRules.findSome? (fun r => r s)

/-- The first rule that is due, taken; none when none is. -/
def fire (s : State) : Option State := rules.findSome? (fun r => r s)

/-- Rules of the corner are taken until none is due; the number bounds how many. -/
def cornerLoop : Nat → State → State
  | 0, s => s
  | n + 1, s =>
    match fireCorner s with
    | some s' => cornerLoop n s'
    | none => s

/-- Rules are taken until none is due; the number bounds how many. -/
def settleLoop : Nat → State → State
  | 0, s => s
  | n + 1, s =>
    match fire s with
    | some s' => settleLoop n s'
    | none => s

/-- More rules than one event can make due: a few hundred for each command waiting and each report and request in play. -/
def settleBound (s : State) : Nat :=
  1000 * (1 + s.link.intake.length + s.requests.length + s.link.heldOut.length + s.outbox.length)

/-! ### The shutter -/

/-- The shutter follows its command, but a shut is deferred while the mouth is settled blocked (R2). -/
def LaneUnit.syncShutter (u : LaneUnit) : LaneUnit :=
  { u with shutter := u.shutterCommand || (u.shutter && u.mouth.settled) }

/-- The shutters at the end of an event (R2). -/
def State.syncShutters (s : State) : State := { s with lanes := s.lanes.map LaneUnit.syncShutter }

/-- The end of an event: every rule that is due, and the shutters. -/
def settle (s : State) : State := (settleLoop (settleBound s) s).syncShutters

/-- What part of one event brings about before the next part of it is taken: the rules of the corner, with a freely chosen part of the
reports made, the others waiting for those of the parts to come (R188, note 24). A VOUCHER offered has its effects; the number bounds how
often. -/
def State.settlePart : Nat → State → State
  | 0, s => s
  | n + 1, s =>
    let s := cornerLoop (settleBound s) s
    if (s.parted Made.any).1.any Made.isVoucher then s.offerSome.settlePart n else s.offerSome.syncShutters

/-! ### Events -/

/-- An event with an effect: while RESET is asserted no input is acted on (R207). -/
def State.event (s : State) (f : State → State) : Host.Outcome State Fault Refusal :=
  .next (if s.resetAsserted then s else settle (f s))

/-- A host command row: the Command Processor takes the frame where the reply slot is empty, and the frame waits in the intake buffer
where it is not (R184, R185, R187; note 11). -/
def State.hostRow (s : State) (i : Instr) (cmd : State → State) : Host.Outcome State Fault Refusal :=
  s.event (fun s =>
    match s.link.replySlot, frameOf i with
    | some _, some f => s.joinIntake f
    | _, _ => cmd s)

end Sys2Proof.Machine
end

