-- ==== Sys2Proof/Machine/CommandRows.lean ====
section
/-! DEFINITION. The host command rows: the Command Processor's taking of each kind of frame (R185, R186). -/

namespace Sys2Proof.Machine

/-- SET_WINDOW (R69). -/
def execSetWindow (h : CmdHead) (f : SetWindowFields) (s : State) : Host.Outcome State Fault Refusal :=
  s.hostRow (.setWindow h f) (State.cmdSetWindow h f)

/-- SET_CLASS (R76). -/
def execSetClass (h : CmdHead) (f : SetClassFields) (s : State) : Host.Outcome State Fault Refusal :=
  s.hostRow (.setClass h f) (State.cmdSetClass h f)

/-- SET_BIN (R146). -/
def execSetBin (h : CmdHead) (f : SetBinFields) (s : State) : Host.Outcome State Fault Refusal :=
  s.hostRow (.setBin h f) (State.cmdSetBin h f)

/-- SET_LANE (R26). -/
def execSetLane (h : CmdHead) (f : SetLaneFields) (s : State) : Host.Outcome State Fault Refusal :=
  s.hostRow (.setLane h f) (State.cmdSetLane h f)

/-- SET_CORNER (R196). -/
def execSetCorner (h : CmdHead) (f : SetCornerFields) (s : State) : Host.Outcome State Fault Refusal :=
  s.hostRow (.setCorner h f) (State.cmdSetCorner h f)

/-- OPEN_LANE (R12). -/
def execOpenLane (h : CmdHead) (lane : Nat) (s : State) : Host.Outcome State Fault Refusal :=
  s.hostRow (.openLane h lane) (State.cmdOpenLane h lane)

/-- CLOSE_LANE (R13). -/
def execCloseLane (h : CmdHead) (lane : Nat) (s : State) : Host.Outcome State Fault Refusal :=
  s.hostRow (.closeLane h lane) (State.cmdCloseLane h lane)

/-- ZERO (R58). -/
def execZero (h : CmdHead) (lane : Nat) (s : State) : Host.Outcome State Fault Refusal :=
  s.hostRow (.zero h lane) (State.cmdZero h lane)

/-- SPAN (R58). -/
def execSpan (h : CmdHead) (lane mass : Nat) (s : State) : Host.Outcome State Fault Refusal :=
  s.hostRow (.span h lane mass) (State.cmdSpan h lane mass)

/-- CODE_ANSWER (R97). -/
def execCodeAnswer (h : CmdHead) (lane seq answer : Nat) (s : State) : Host.Outcome State Fault Refusal :=
  s.hostRow (.codeAnswer h lane seq answer) (State.cmdCodeAnswer h lane seq answer)

/-- BIN_SERVICE begin; the fill makes no difference (R160, R203). -/
def execBinServiceBegin (h : CmdHead) (bin fill : Nat) (s : State) : Host.Outcome State Fault Refusal :=
  s.hostRow (.binServiceBegin h bin fill) (State.cmdServiceBegin h bin)

/-- BIN_SERVICE end (R161). -/
def execBinServiceEnd (h : CmdHead) (bin fill : Nat) (s : State) : Host.Outcome State Fault Refusal :=
  s.hostRow (.binServiceEnd h bin fill) (State.cmdServiceEnd h bin fill)

/-- CATCH_EMPTIED (R140). -/
def execCatchEmptied (h : CmdHead) (s : State) : Host.Outcome State Fault Refusal :=
  s.hostRow (.catchEmptied h) (State.cmdCatchEmptied h)

/-- CLEAR lane RETRY (R22). -/
def execClearLaneRetry (h : CmdHead) (lane : Nat) (s : State) : Host.Outcome State Fault Refusal :=
  s.hostRow (.clearLaneRetry h lane) (State.cmdRetry h lane)

/-- CLEAR lane RETURN (R22). -/
def execClearLaneReturn (h : CmdHead) (lane : Nat) (s : State) : Host.Outcome State Fault Refusal :=
  s.hostRow (.clearLaneReturn h lane) (State.cmdReturn h lane)

/-- CLEAR lane DISCARD (R22). -/
def execClearLaneDiscard (h : CmdHead) (lane : Nat) (s : State) : Host.Outcome State Fault Refusal :=
  s.hostRow (.clearLaneDiscard h lane) (State.cmdDiscard h lane)

/-- CLEAR conveyor (R126). -/
def execClearConveyor (h : CmdHead) (s : State) : Host.Outcome State Fault Refusal :=
  s.hostRow (.clearConveyor h) (State.cmdClearConveyor h)

/-- CLEAR pocket (R117). -/
def execClearPocket (h : CmdHead) (s : State) : Host.Outcome State Fault Refusal :=
  s.hostRow (.clearPocket h) (State.cmdClearPocket h)

/-- CLEAR bin (R162). -/
def execClearBin (h : CmdHead) (bin : Nat) (s : State) : Host.Outcome State Fault Refusal :=
  s.hostRow (.clearBin h bin) (State.cmdClearBin h bin)

/-- HALT on (R125). -/
def execHaltOn (h : CmdHead) (s : State) : Host.Outcome State Fault Refusal :=
  s.hostRow (.haltOn h) (State.cmdHaltOn h)

/-- HALT off (R125). -/
def execHaltOff (h : CmdHead) (s : State) : Host.Outcome State Fault Refusal :=
  s.hostRow (.haltOff h) (State.cmdHaltOff h)

/-- QUERY lane (R197). -/
def execQueryLane (h : CmdHead) (lane : Nat) (s : State) : Host.Outcome State Fault Refusal :=
  s.hostRow (.queryLane h lane) (State.cmdQueryLane h lane)

/-- QUERY bin (R197). -/
def execQueryBin (h : CmdHead) (bin : Nat) (s : State) : Host.Outcome State Fault Refusal :=
  s.hostRow (.queryBin h bin) (State.cmdQueryBin h bin)

/-- QUERY ring (R197). -/
def execQueryRing (h : CmdHead) (s : State) : Host.Outcome State Fault Refusal :=
  s.hostRow (.queryRing h) (State.cmdQueryRing h)

/-- QUERY counters (R197). -/
def execQueryCounters (h : CmdHead) (s : State) : Host.Outcome State Fault Refusal :=
  s.hostRow (.queryCounters h) (State.cmdQueryCounters h)

/-- QUERY session (R179, R197). -/
def execQuerySession (h : CmdHead) (lane : Nat) (s : State) : Host.Outcome State Fault Refusal :=
  s.hostRow (.querySession h lane) (State.cmdQuerySession h lane)

/-- RESTART (R198). -/
def execRestart (h : CmdHead) (force : Nat) (s : State) : Host.Outcome State Fault Refusal :=
  s.hostRow (.restart h force) (State.cmdRestart h force)

/-- A frame whose KIND names no command is taken and answered UNKNOWN_KIND (R185). -/
def execUnknownKindCommand (frame : Frame) (s : State) : Host.Outcome State Fault Refusal :=
  s.hostRow (.unknownKindCommand frame) (fun s => s.takeFrame frame)

end Sys2Proof.Machine
end

