-- ==== Sys2Proof/Machine/CornerRows.lean ====
section
/-! DEFINITION. The rows of the pocket, the conveyor and the bins (chapters 6, 7 and 8). -/

namespace Sys2Proof.Machine

/-- The pocket is granted where the conditions of R108 hold. -/
def execPocketGrant (s : State) : Host.Outcome State Fault Refusal :=
  s.event (fun s => s.dueGrant.getD s)

/-- The settled pocket beam changes (R106, R114). -/
def execPocketBeamChange (blocked : Bool) (s : State) : Host.Outcome State Fault Refusal :=
  s.event (fun s => s.pocketBeamSettles blocked)

/-- The handoff timer expires (R113); stopped, it does not. -/
def execHandoffTimerExpiry (s : State) : Host.Outcome State Fault Refusal :=
  s.event State.handoffExpires

/-- The release timer expires (R116); stopped, it does not. -/
def execReleaseTimerExpiry (s : State) : Host.Outcome State Fault Refusal :=
  s.event State.releaseExpires

/-- An index pulse, taken in every conveyor state (R129). -/
def execIndexAdvance (s : State) : Host.Outcome State Fault Refusal :=
  s.event State.advance

/-- A STOPPED conveyor with work present enters STARTING (R122). -/
def execConveyorStarting (s : State) : Host.Outcome State Fault Refusal :=
  s.event (fun s => if s.conveyor == .stopped && s.workPresent then s.conveyorStarts else s)

/-- A RUNNING conveyor with no work present enters RUN_OUT (R124). -/
def execConveyorRunOut (s : State) : Host.Outcome State Fault Refusal :=
  s.event (fun s => if s.workPresent then s else s.conveyorRunsOut)

/-- The start timer expires (R122); stopped, it does not. -/
def execStartTimerExpiry (s : State) : Host.Outcome State Fault Refusal :=
  s.event State.startExpires

/-- The stall timer expires (R123); stopped, it does not. -/
def execStallTimerExpiry (s : State) : Host.Outcome State Fault Refusal :=
  s.event State.stallExpires

/-- The run-out timer expires (R124); stopped, it does not. -/
def execRunOutTimerExpiry (s : State) : Host.Outcome State Fault Refusal :=
  s.event State.runOutExpires

/-- A diverter pulse ends (R134). -/
def execDiverterPulseEnd (bin : BinId) (s : State) : Host.Outcome State Fault Refusal :=
  s.event (fun s => s.pulseEnds bin)

/-- A bin's entry beam settles blocked (R135, R159). -/
def execBinEntryBeamBlocked (bin : BinId) (s : State) : Host.Outcome State Fault Refusal :=
  s.event (fun s => s.entryBlocked bin)

/-- The end-of-line beam settles blocked (R136). -/
def execEndOfLineBeamBlocked (s : State) : Host.Outcome State Fault Refusal :=
  s.event State.endBlocked

/-- A reading of the detect contacts (R148). -/
def execBinDetectContactChange (bin : BinId) (contactA contactB : Bool) (s : State) : Host.Outcome State Fault Refusal :=
  s.event (fun s => s.readContacts bin (contactsOf contactA contactB))

/-- The seating debounce timer expires (R148); stopped, it does not. -/
def execSeatingDebounceExpiry (bin : BinId) (s : State) : Host.Outcome State Fault Refusal :=
  s.event (fun s => s.debounceExpires bin)

/-- The settled ready line changes (R150). -/
def execBinReadyChange (bin : BinId) (asserted : Bool) (s : State) : Host.Outcome State Fault Refusal :=
  s.event (fun s => s.readyChanges bin asserted)

/-- The power-up timer expires (R150); stopped, it does not. -/
def execPowerUpTimerExpiry (bin : BinId) (s : State) : Host.Outcome State Fault Refusal :=
  s.event (fun s => s.powerUpExpires bin)

/-- A COMPACT_PENDING bin whose reserved is 0 enters COMPACTING (R156). -/
def execCompactingEntry (bin : BinId) (s : State) : Host.Outcome State Fault Refusal :=
  s.event (fun s => if (s.bin bin).compactionDue then s.startCompacting bin else s)

/-- The settled done line becomes asserted (R157). -/
def execCompactorDone (bin : BinId) (s : State) : Host.Outcome State Fault Refusal :=
  s.event (fun s => s.compactorFinishes bin)

/-- The compaction timer expires (R157); stopped, it does not. -/
def execCompactionTimerExpiry (bin : BinId) (s : State) : Host.Outcome State Fault Refusal :=
  s.event (fun s => s.compactionExpires bin)

end Sys2Proof.Machine
end

