-- ==== Sys2Proof/Machine/Reader.lean ====
section
/-! DEFINITION. The Code Reader Port: the line buffer, the check digit and the reading zone (R41 to R47). -/

namespace Sys2Proof.Machine

/-- The digit a character spells, if it is one (R42), in ASCII (note 23). -/
def digitOf (b : Byte) : Option Nat := if 0x30 ≤ b.toNat ∧ b.toNat ≤ 0x39 then some (b.toNat - 0x30) else none

/-- The digits of a line, if every character is one. -/
def digitsOf : List Byte → Option (List Nat)
  | [] => some []
  | b :: bs =>
    match digitOf b, digitsOf bs with
    | some d, some ds => some (d :: ds)
    | _, _ => none

/-- The sum of data digits, given from the rightmost leftward, with weights 3, 1, 3, 1 and so on (R43). -/
def weightedSum : List Nat → Nat
  | [] => 0
  | [d] => 3 * d
  | d :: e :: ds => 3 * d + e + weightedSum ds

/-- The expected check digit of data digits in writing order (R43). -/
def checkDigit (ds : List Nat) : Nat := (10 - weightedSum ds.reverse % 10) % 10

/-- The number that digits in writing order spell. -/
def spelled (ds : List Nat) : Nat := ds.foldl (fun n d => 10 * n + d) 0

/-- What a finished line gives (R42, R43). -/
inductive LineResult where
  | malformed
  | badRead
  | good (c : Code)
  deriving DecidableEq, Repr

/-- The judging of a candidate's digits (R43). -/
def judgeDigits (ds : List Nat) : LineResult :=
  if ds.getLast? = some (checkDigit ds.dropLast) then .good ⟨ds.length, spelled ds⟩ else .badRead

/-- The judging of a finished line (R42). -/
def judgeLine (badLine : Bool) (line : List Byte) : LineResult :=
  if badLine then .malformed
  else if line.length = 8 ∨ line.length = 13 then
    match digitsOf line with
    | some ds => judgeDigits ds
    | none => .malformed
  else .malformed

/-- What a line's result does to a record in the open zone (R44). -/
def ContainerRecord.post (r : ContainerRecord) (x : LineResult) : ContainerRecord :=
  match x with
  | .malformed => r
  | .badRead => { r with badReads := satSucc 255 r.badReads }
  | .good c =>
    match r.code with
    | none => { r with code := some c }
    | some c' => if c' = c then r else { r with conflict := true }

/-- A line's result is taken to the reading zone (R44). -/
def LaneUnit.post (u : LaneUnit) (x : LineResult) : LaneUnit :=
  if u.zoneOpen then { u with record := u.record.map (·.post x) } else u

/-- A received character at the port (R41): the port after it, and the result of the line it finishes. CR and LF are those of ASCII
(note 23). -/
def ReaderPort.take (p : ReaderPort) (c : Byte) (framingError : Bool) : ReaderPort × LineResult :=
  if p.skipping then
    (if c = 0x0D#8 ∧ framingError = false then { p with skipping := false } else p, .malformed)
  else if framingError then ({ p with badLine := true }, .malformed)
  else if c = 0x0D#8 then (ReaderPort.reset, judgeLine p.badLine p.buffer)
  else if c = 0x0A#8 then (p, .malformed)
  else if p.buffer.length < Config.readerChars then ({ p with buffer := p.buffer ++ [c] }, .malformed)
  else ({ buffer := [], badLine := false, skipping := true }, .malformed)

/-- A character of a lane's code reader line (R41 to R44). -/
def State.readerChar (s : State) (l : Lane) (c : Byte) (framingError : Bool) : State :=
  s.modLane l (fun u =>
    let x := u.reader.take c framingError
    { u with reader := x.1 }.post x.2)

end Sys2Proof.Machine
end

