-- ==== Sys2Proof/Machine/LaneRows.lean ====
section
/-! DEFINITION. The rows of a lane: scans, mouth and button, admission, encoder, timers, closing, reader, converter and query timer (chapters 1, 2, 3
and 5). -/

namespace Sys2Proof.Machine

/-- A scan at an open lane. Where the mouth beam or the button settles at it, the three parts come together and may be taken in any
order (R8, R16, R39; note 7), each with what it brings about; at most four sessions can end meanwhile. -/
def State.scanEvent (x : Scan) (l : Lane) (s : State) : State :=
  if (s.lane l).isOpen && (s.lane l).scanSettles x then
    (s.arranged (scanParts x l)).1.foldl (fun s part => (part s).settlePart 5) (s.arranged (scanParts x l)).2
  else (scanParts x l).foldl (fun s part => part s) s

/-- The button settles pressed on an open lane (R8). Where it stood settled pressed already, this is a further press (note 22). -/
def State.buttonPressed (l : Lane) (s : State) : State :=
  if (s.lane l).isOpen then (s.modLane l (fun u => { u with button := ⟨true, false⟩ })).press l else s

/-- A scan of the curtain is complete (R28). -/
def execCurtainScan (lane : Lane) (scan : Scan) (s : State) : Host.Outcome State Fault Refusal :=
  s.event (State.scanEvent scan lane)

/-- The settled mouth beam changes (R8). -/
def execMouthBeamChange (lane : Lane) (blocked : Bool) (s : State) : Host.Outcome State Fault Refusal :=
  s.event (fun s => if (s.lane lane).isOpen && (s.lane lane).mouth.settled != blocked then s.mouthSettles lane blocked else s)

/-- The voucher button settles pressed; on a CLOSED lane it is ignored (R8). -/
def execVoucherButtonPress (lane : Lane) (s : State) : Host.Outcome State Fault Refusal :=
  s.event (State.buttonPressed lane)

/-- A READY lane whose conditions hold enters ADMIT (R9). -/
def execAdmission (lane : Lane) (s : State) : Host.Outcome State Fault Refusal :=
  s.event (fun s => if (s.lane lane).admits then s.enterAdmit lane else s)

/-- A belt encoder pulse (R4). -/
def execEncoderPulse (lane : Lane) (s : State) : Host.Outcome State Fault Refusal :=
  s.event (fun s => s.pulse lane)

/-- The admit timer expires (R16); stopped, it does not. -/
def execAdmitTimerExpiry (lane : Lane) (s : State) : Host.Outcome State Fault Refusal :=
  s.event (fun s => s.admitExpires lane)

/-- The belt stall timer expires (R4); stopped, it does not. -/
def execBeltStall (lane : Lane) (s : State) : Host.Outcome State Fault Refusal :=
  s.event (fun s => s.beltStalls lane)

/-- The standby timer expires (R23); stopped or held, it does not. -/
def execStandbyTimerExpiry (lane : Lane) (s : State) : Host.Outcome State Fault Refusal :=
  s.event (fun s => if (s.lane lane).standbyTimer.isSome then s.enterStandby lane else s)

/-- The dormant timer expires (R24); stopped, it does not. -/
def execDormantTimerExpiry (lane : Lane) (s : State) : Host.Outcome State Fault Refusal :=
  s.event (fun s => if (s.lane lane).dormantTimer.isSome then s.enterDormant lane else s)

/-- The session idle timer expires (R25); stopped, it does not. -/
def execSessionIdleTimerExpiry (lane : Lane) (s : State) : Host.Outcome State Fault Refusal :=
  s.event (fun s => if (s.lane lane).sessionIdleTimer.isSome then s.closeRequest lane .idle else s)

/-- A lane with close-pending whose conditions hold enters CLOSED (R14). -/
def execLaneEntersClosed (lane : Lane) (s : State) : Host.Outcome State Fault Refusal :=
  s.event (fun s => if (s.lane lane).closes then s.enterClosed lane else s)

/-- A character of the code reader line (R41). -/
def execReaderCharacter (lane : Lane) (char : Byte) (framingError : Bool) (s : State) : Host.Outcome State Fault Refusal :=
  s.event (fun s => s.readerChar lane char framingError)

/-- A converter sample, signed (R48, R51). -/
def execConverterSample (lane : Lane) (sample : BitVec 16) (s : State) : Host.Outcome State Fault Refusal :=
  s.event (fun s => s.sample lane sample.toInt)

/-- The auto-zero timer expires (R63); stopped, it does not. -/
def execAutoZeroTimerExpiry (lane : Lane) (s : State) : Host.Outcome State Fault Refusal :=
  s.event (fun s => s.autoZeroExpires lane)

/-- The query timer expires (R99); stopped, it does not. -/
def execQueryTimerExpiry (lane : Lane) (s : State) : Host.Outcome State Fault Refusal :=
  s.event (fun s => s.queryExpires lane)

/-- A CLOSING session whose conditions hold offers its voucher (R171). -/
def execVoucherOffer (lane : Lane) (s : State) : Host.Outcome State Fault Refusal :=
  s.event (fun s => if (s.lane lane).voucherDue then s.offerVoucher lane else s)

end Sys2Proof.Machine
end

