-- ==== Sys2Proof/Machine/LinkRows.lean ====
section
/-! DEFINITION. The rows of the host line and of the RESET pin (chapter 10, R207, R208). -/

namespace Sys2Proof.Machine

/-- Every block in its pin-reset state (R207). -/
def State.pinReset (s : State) : State :=
  { State.reset with
    bins := s.bins.map (fun u => { BinUnit.reset with contacts := u.contacts })
    choices := s.choices
    draws := s.draws
    pending := s.pending }

/-- A host frame completes at its last CHECK byte (R182). -/
def execFrameReceived (frame : Frame) (check : BitVec 16) (s : State) : Host.Outcome State Fault Refusal :=
  s.event (fun s => s.frameCompletes frame check)

/-- The inter-byte timer expires (R183); in HUNT it does not run. -/
def execInterByteTimeout (s : State) : Host.Outcome State Fault Refusal :=
  s.event State.interByteExpires

/-- The supervision timer expires (R194). -/
def execLinkLost (s : State) : Host.Outcome State Fault Refusal :=
  s.event State.supervisionExpires

/-- The transmitter ends a frame, and begins the next at the same event (R187). -/
def execFrameTransmitted (s : State) : Host.Outcome State Fault Refusal :=
  s.event State.txEnds

/-- The oldest held-out report enters a queue with room (R192); with none it waits. -/
def execHeldOutReportEnters (s : State) : Host.Outcome State Fault Refusal :=
  s.event (fun s => s.dueHeldOut.getD s)

/-- A byte from the host line (R181). -/
def execHostByteReceived (byte : Byte) (framingError : Bool) (s : State) : Host.Outcome State Fault Refusal :=
  s.event (fun s => s.hostByte byte framingError)

/-- RESET is asserted: the outputs are at rest, a frame being sent is cut off, and no input is acted on (R207, R208). -/
def execResetAsserted (s : State) : Host.Outcome State Fault Refusal :=
  .next { s with resetAsserted := true, link := { s.link with transmitter := none } }

/-- RESET is released: every block enters its pin-reset state (R207). The rows waiting, the model's choices and the contacts as they stand are
not the blocks' own (note 10). -/
def execResetReleased (s : State) : Host.Outcome State Fault Refusal :=
  .next (if s.resetAsserted then s.pinReset else s)

end Sys2Proof.Machine
end

