-- ==== Sys2Proof/Machine/Dispatch.lean ====
section
/-! DEFINITION. `exec`: one arm per row of spec/opcode_table.json, each one call of the row's own meaning. -/

namespace Sys2Proof.Machine

def exec (i : Instr) (s : State) : Host.Outcome State Fault Refusal :=
  match i with
  | .setWindow h f => Sys2Proof.Machine.execSetWindow h f s
  | .setClass h f => Sys2Proof.Machine.execSetClass h f s
  | .setBin h f => Sys2Proof.Machine.execSetBin h f s
  | .setLane h f => Sys2Proof.Machine.execSetLane h f s
  | .setCorner h f => Sys2Proof.Machine.execSetCorner h f s
  | .openLane h lane => Sys2Proof.Machine.execOpenLane h lane s
  | .closeLane h lane => Sys2Proof.Machine.execCloseLane h lane s
  | .zero h lane => Sys2Proof.Machine.execZero h lane s
  | .span h lane mass => Sys2Proof.Machine.execSpan h lane mass s
  | .codeAnswer h lane seq answer => Sys2Proof.Machine.execCodeAnswer h lane seq answer s
  | .binServiceBegin h bin fill => Sys2Proof.Machine.execBinServiceBegin h bin fill s
  | .binServiceEnd h bin fill => Sys2Proof.Machine.execBinServiceEnd h bin fill s
  | .catchEmptied h => Sys2Proof.Machine.execCatchEmptied h s
  | .clearLaneRetry h lane => Sys2Proof.Machine.execClearLaneRetry h lane s
  | .clearLaneReturn h lane => Sys2Proof.Machine.execClearLaneReturn h lane s
  | .clearLaneDiscard h lane => Sys2Proof.Machine.execClearLaneDiscard h lane s
  | .clearConveyor h => Sys2Proof.Machine.execClearConveyor h s
  | .clearPocket h => Sys2Proof.Machine.execClearPocket h s
  | .clearBin h bin => Sys2Proof.Machine.execClearBin h bin s
  | .haltOn h => Sys2Proof.Machine.execHaltOn h s
  | .haltOff h => Sys2Proof.Machine.execHaltOff h s
  | .queryLane h lane => Sys2Proof.Machine.execQueryLane h lane s
  | .queryBin h bin => Sys2Proof.Machine.execQueryBin h bin s
  | .queryRing h => Sys2Proof.Machine.execQueryRing h s
  | .queryCounters h => Sys2Proof.Machine.execQueryCounters h s
  | .querySession h lane => Sys2Proof.Machine.execQuerySession h lane s
  | .restart h force => Sys2Proof.Machine.execRestart h force s
  | .unknownKindCommand frame => Sys2Proof.Machine.execUnknownKindCommand frame s
  | .frameReceived frame check => Sys2Proof.Machine.execFrameReceived frame check s
  | .interByteTimeout => Sys2Proof.Machine.execInterByteTimeout s
  | .linkLost => Sys2Proof.Machine.execLinkLost s
  | .frameTransmitted => Sys2Proof.Machine.execFrameTransmitted s
  | .heldOutReportEnters => Sys2Proof.Machine.execHeldOutReportEnters s
  | .curtainScan lane scan => Sys2Proof.Machine.execCurtainScan lane scan s
  | .mouthBeamChange lane blocked => Sys2Proof.Machine.execMouthBeamChange lane blocked s
  | .voucherButtonPress lane => Sys2Proof.Machine.execVoucherButtonPress lane s
  | .admission lane => Sys2Proof.Machine.execAdmission lane s
  | .encoderPulse lane => Sys2Proof.Machine.execEncoderPulse lane s
  | .admitTimerExpiry lane => Sys2Proof.Machine.execAdmitTimerExpiry lane s
  | .beltStall lane => Sys2Proof.Machine.execBeltStall lane s
  | .standbyTimerExpiry lane => Sys2Proof.Machine.execStandbyTimerExpiry lane s
  | .dormantTimerExpiry lane => Sys2Proof.Machine.execDormantTimerExpiry lane s
  | .sessionIdleTimerExpiry lane => Sys2Proof.Machine.execSessionIdleTimerExpiry lane s
  | .laneEntersClosed lane => Sys2Proof.Machine.execLaneEntersClosed lane s
  | .readerCharacter lane char framingError => Sys2Proof.Machine.execReaderCharacter lane char framingError s
  | .converterSample lane sample => Sys2Proof.Machine.execConverterSample lane sample s
  | .autoZeroTimerExpiry lane => Sys2Proof.Machine.execAutoZeroTimerExpiry lane s
  | .queryTimerExpiry lane => Sys2Proof.Machine.execQueryTimerExpiry lane s
  | .pocketGrant => Sys2Proof.Machine.execPocketGrant s
  | .pocketBeamChange blocked => Sys2Proof.Machine.execPocketBeamChange blocked s
  | .handoffTimerExpiry => Sys2Proof.Machine.execHandoffTimerExpiry s
  | .releaseTimerExpiry => Sys2Proof.Machine.execReleaseTimerExpiry s
  | .indexAdvance => Sys2Proof.Machine.execIndexAdvance s
  | .conveyorStarting => Sys2Proof.Machine.execConveyorStarting s
  | .conveyorRunOut => Sys2Proof.Machine.execConveyorRunOut s
  | .startTimerExpiry => Sys2Proof.Machine.execStartTimerExpiry s
  | .stallTimerExpiry => Sys2Proof.Machine.execStallTimerExpiry s
  | .runOutTimerExpiry => Sys2Proof.Machine.execRunOutTimerExpiry s
  | .diverterPulseEnd bin => Sys2Proof.Machine.execDiverterPulseEnd bin s
  | .binEntryBeamBlocked bin => Sys2Proof.Machine.execBinEntryBeamBlocked bin s
  | .endOfLineBeamBlocked => Sys2Proof.Machine.execEndOfLineBeamBlocked s
  | .binDetectContactChange bin contactA contactB => Sys2Proof.Machine.execBinDetectContactChange bin contactA contactB s
  | .seatingDebounceExpiry bin => Sys2Proof.Machine.execSeatingDebounceExpiry bin s
  | .binReadyChange bin asserted => Sys2Proof.Machine.execBinReadyChange bin asserted s
  | .powerUpTimerExpiry bin => Sys2Proof.Machine.execPowerUpTimerExpiry bin s
  | .compactingEntry bin => Sys2Proof.Machine.execCompactingEntry bin s
  | .compactorDone bin => Sys2Proof.Machine.execCompactorDone bin s
  | .compactionTimerExpiry bin => Sys2Proof.Machine.execCompactionTimerExpiry bin s
  | .voucherOffer lane => Sys2Proof.Machine.execVoucherOffer lane s
  | .resetAsserted => Sys2Proof.Machine.execResetAsserted s
  | .resetReleased => Sys2Proof.Machine.execResetReleased s
  | .hostByteReceived byte framingError => Sys2Proof.Machine.execHostByteReceived byte framingError s

end Sys2Proof.Machine
end

