-- ==== Sys2Proof/Safety.lean ====
section
/-! DEFINITION. What counts as a sound state of the part: the bounds, counts and exclusions that the manual states of every moment,
and the state of rest between two events. -/

namespace Sys2Proof.Machine

/-! ### Rest -/

/-- No rule is left due and the shutters stand where they are commanded: what the manual says happens at the first event after which
its condition holds, has happened. -/
abbrev State.settled (s : State) : Prop := fire s = none ∧ s.syncShutters = s

/-- The part between two events: at rest, or held in reset (R207). -/
abbrev State.Rests (s : State) : Prop := s.resetAsserted = true ∨ s.settled

/-- The part out of reset and at rest: where a row finds it. -/
abbrev State.Ready (s : State) : Prop := s.resetAsserted = false ∧ s.settled

/-- The Command Processor takes a frame that arrives: out of reset, at rest, with the reply slot empty (R185). -/
abbrev State.TakesCommands (s : State) : Prop := s.Ready ∧ s.link.replySlot = none

/-- The state with a reply made for a taken command: in the transmitter where that is idle, else in the reply slot (R187). -/
def State.replied (s : State) (f : Frame) : State :=
  match s.link.transmitter with
  | none => { s with link := { s.link with transmitter := some f } }
  | some _ => { s with link := { s.link with replySlot := some f } }

/-- The reply made at an event is on its way: in the transmitter, or in the slot behind a frame being sent (R187). -/
abbrev State.Replying (s : State) (f : Frame) : Prop := s.link.transmitter = some f ∨ s.link.replySlot = some f

/-! ### What an event leaves alone -/

/-- Everything but what is on its way to the host and the model's own choice fields: the reports made, queued, held out or lost, and the
reply and frame being sent, set aside. Two states with equal `apart` agree on every block. -/
def State.apart (s : State) : State :=
  { s with
    outbox := [], choices := [], draws := 0
    link := { s.link with replySlot := none, transmitter := none, queue := [], heldOut := [], lost := false } }

/-- The event changed one lane and nothing else but reports. -/
abbrev State.OnlyLane (l : Lane) (s t : State) : Prop := t.apart = (s.setLane l (t.lane l)).apart

/-- The event changed one bin and nothing else but reports. -/
abbrev State.OnlyBin (b : BinId) (s t : State) : Prop := t.apart = (s.setBin b (t.bin b)).apart

/-- The report has been made: it is queued or held out, or its frame is being sent. -/
abbrev State.Told (s : State) (r : Report) : Prop :=
  r ∈ s.link.queue ∨ r ∈ s.link.heldOut ∨ s.link.transmitter = some (r.frame false) ∨ s.link.transmitter = some (r.frame true)

/-- A droppable report has been made: told, or lost with the LOST flag set (R190). -/
abbrev State.ToldOrLost (s : State) (r : Report) : Prop := s.Told r ∨ s.link.lost = true

/-- The fields of the corner that the rules of an event's end leave alone. -/
def State.corePart (s : State) : State :=
  { State.reset with
    resetAsserted := s.resetAsserted
    windows := s.windows
    classes := s.classes
    pocketBeam := s.pocketBeam
    ring := s.ring
    endFlag := s.endFlag
    endBeam := s.endBeam
    catchCount := s.catchCount
    counters := s.counters
    corner := s.corner
    pending := s.pending
    link := { LinkPort.reset with
      receiver := s.link.receiver
      frameErrors := s.link.frameErrors
      overruns := s.link.overruns
      state := s.link.state
      supervision := s.link.supervision } }

/-- The fields of a lane that the rules of an event's end leave alone. -/
def LaneUnit.keptPart (u : LaneUnit) : LaneUnit :=
  { LaneUnit.reset with
    config := u.config, zero := u.zero, span := u.span, lastWithdrawn := u.lastWithdrawn, mouth := u.mouth, button := u.button
    reader := u.reader }

/-- A lane but for its holds, session, query context and shutter, which the rules of an event's end may move without moving the lane. -/
def LaneUnit.bodyPart (u : LaneUnit) : LaneUnit :=
  { u with holds := HoldSet.none, session := Session.none 1, query := .idle, shutter := false }

/-- A lane that no rule of an event's end wakes, admits or closes. -/
def LaneUnit.still (u : LaneUnit) : Bool :=
  (match u.state with
    | .ready => !u.mouth.settled || u.calRunning
    | .standby | .dormant => !u.mouth.settled
    | _ => true) &&
  (!u.closePending || u.record.isSome || u.calRunning || !u.isOpen)

/-- What the rules of an event's end keep where they take no command: the corner's tables, ring, counters and receiver; every lane's
configuration, calibration and inputs; every lane that is still and waits in no list; the order of the list but for its head; and every
bin but one that starts to compact. -/
structure Keeps (s t : State) : Prop where
  core : t.corePart = s.corePart
  lane : ∀ l, (t.lane l).keptPart = (s.lane l).keptPart
  body : ∀ l, (s.lane l).still = true → l ∉ s.requests → (t.lane l).bodyPart = (s.lane l).bodyPart
  requests : ∀ l, l ∈ t.requests → l ∈ s.requests
  bin : ∀ b, (s.bin b).state ≠ .compactPending → t.bin b = s.bin b

/-- A STANDBY or DORMANT lane woken to READY (R24); a lane in another state as it stands. -/
def LaneUnit.awake (u : LaneUnit) : LaneUnit :=
  match u.state with
  | .standby | .dormant =>
    { u with
      state := .ready, converterOn := true, coldStart := u.coldStart || !u.converterOn, belt := .off, faultCause := none
      mouthOpen := false, curtain := { u.curtain with phase := .none } }
  | _ => u

/-- A lane that may close in the form it takes in CLOSED (R14, R40, R65); any other lane as it stands. -/
def LaneUnit.closedIfDue (u : LaneUnit) : LaneUnit :=
  if u.closes then
    { u with
      state := .closed, faultCause := none, holds := HoldSet.none, closePending := false, calRunning := false, belt := .off
      mouthOpen := false, curtain := Curtain.reset, weigher := Weigher.idle }
  else u

/-- The VOUCHER report of a lane whose session is x (R175). -/
def Session.voucher (x : Session) (l : Lane) : Report :=
  .voucher ⟨l, x.number, x.cause, x.lines, x.itemCount, x.valueTotal, x.rejected⟩

/-- The session x has its VOUCHER report made, with its contents and cause, and has become NONE with the next number (R172, R173). -/
abbrev State.VoucherGone (t : State) (l : Lane) (x : Session) : Prop :=
  t.Told (x.voucher l) ∧ (t.lane l).session = Session.none (if x.number < 65535 then x.number + 1 else 1) ∧
  (t.lane l).holds.sessionClosing = false

/-- The session x stands CLOSING with its VOUCHER report held out for want of room (R172). -/
abbrev State.VoucherWaits (t : State) (l : Lane) (x : Session) : Prop :=
  (∃ r ∈ t.link.heldOut, r.isVoucherOf l = true) ∧ (t.lane l).session = { x with voucherWaiting := true } ∧
  (t.lane l).holds.sessionClosing = true

/-- From s, where lane l would be u, the CLOSING session x of the lane ends (R170 to R173). With room in the queue its VOUCHER is made, the
session is NONE, SESSION_CLOSING is gone and the lane closes where it may; without room it waits. Of two reports made at the event the
VOUCHER may be offered second (note 1), so in a queue with one place left either can be. Nothing else changes but reports. -/
abbrev State.SessionEnds (s t : State) (l : Lane) (u : LaneUnit) (x : Session) : Prop :=
  (s.link.queue.length < 32 ∧ t.VoucherGone l x ∧
    t.apart = (s.setLane l (LaneUnit.syncShutter (LaneUnit.closedIfDue { u with
      session := Session.none (if x.number < 65535 then x.number + 1 else 1)
      holds := { u.holds with sessionClosing := false } }))).apart) ∨
  (30 < s.link.queue.length ∧ t.VoucherWaits l x ∧
    t.apart = (s.setLane l (LaneUnit.syncShutter { u with
      session := { x with voucherWaiting := true }
      holds := { u.holds with sessionClosing := true } })).apart)

/-- Where a good frame restores a LOST link with the reply slot empty, the state in which its command is taken. u is what the same frame
leaves behind a waiting reply, here without that reply and with the frame out of the buffer; of the restoration's reports those in `now` are
offered to the queue of s, and those in `later` are still to be offered, with the command's (R188, R195, note 24). -/
def State.takingOver (s u : State) (now later : List Made) (c : List Nat) (d : Nat) : State :=
  let k := (now.map u.reportOf).foldl LinkPort.offer s.link
  { u with
    choices := c, draws := d, outbox := later
    link := { u.link with
      transmitter := s.link.transmitter, replySlot := none, intake := [], queue := k.queue, heldOut := k.heldOut, lost := k.lost } }

/-- The reports of one coalesced subject: a lane's LANE or CALIBRATION reports, a bin's BIN reports, CONVEYOR reports, LINK reports
(R188, R189). -/
def Report.sameSubject (q r : Report) : Bool :=
  match q, r with
  | .lane a, .lane b => a.lane == b.lane
  | .calibration a, .calibration b => a.lane == b.lane
  | .bin a, .bin b => a.bin == b.bin
  | .conveyor _, .conveyor _ => true
  | .link _, .link _ => true
  | _, _ => false

/-- A body is laid out as a table of the manual says: its length, and at each offset a field of a size in bytes with a value, low byte first
(11.2). -/
abbrev LaidOut (body : List Byte) (length : Nat) (rows : List (Nat × Nat × Nat)) : Prop :=
  body.length = length ∧ ∀ x ∈ rows, fieldAt body x.1 x.2.1 = x.2.2 % 256 ^ x.2.1

/-! ### The names of 11.2's enumerations, each list in the order of its values from 0 -/

def laneStates : List LaneState :=
  [.closed, .ready, .standby, .dormant, .admitting, .weigh, .query, .hold, .handoff, .returning, .fault]

def laneFaults : List (Option LaneFault) :=
  [none, some .beltStall, some .mouthStuck, some .strayLight, some .handoffTimeout, some .returnLost, some .scaleNegative]

def materialNames : List Material := [.plastic, .metal, .glass, .carton]

/-- The reasons, and none where there is no reject. -/
def rejectReasons : List (Option Reason) :=
  [none, some .double, some .long, some .overweight, some .unstable, some .conflict, some .badCheck, some .noCode, some .excluded,
    some .unknown, some .queryTimeout, some .classOff, some .underweight, some .shape, some .limit, some .noBin, some .cleared]

def binStates : List BinState :=
  [.unconfigured, .absent, .powering, .opened, .compactPending, .compacting, .full, .service, .fault]

def binFaults : List (Option BinFault) := [none, some .notReady, some .compactTimeout]

def binEvents : List BinEvent := [.state, .nearFull, .removal, .partially, .strayIn, .config]

def seatings : List Seating := [.unseated, .partially, .seated]

def calOperations : List CalOperation := [.zero, .span, .autoZero]

def calOutcomes : List CalOutcome := [.done, .scaleRange, .unstable, .spanRange, .zeroDrift]

def sessionStates : List SessionState := [.none, .opened, .closing]

def closeCauses : List (Option CloseCause) := [none, some .button, some .idle, some .laneClosed]

def linkEvents : List LinkEvent := [.frameError, .overrun, .linkLost, .linkRestored]

/-- The value of a conveyor state. -/
def conveyorNumber (c : Conveyor) : Nat :=
  match c with
  | .stopped => 0
  | .starting _ => 1
  | .running _ => 2
  | .runOut _ _ => 3
  | .halted => 4
  | .fault => 5

/-- The value of a pocket state. -/
def pocketNumber (p : Pocket) : Nat :=
  match p with
  | .empty => 0
  | .granted _ _ => 1
  | .loaded _ => 2
  | .foreign => 3
  | .releasing _ => 4
  | .fault => 5

/-- The value of an origin: the lane, or 4. -/
def originNumber (o : Origin) : Nat :=
  match o with
  | .lane l => l.val
  | .foreign => 4

/-- A gain as the number it is, 0 for none. -/
def gainNumber (g : Option Gain) : Nat :=
  match g with
  | none => 0
  | some .g16 => 16
  | some .g4 => 4
  | some .g1 => 1

/-- The sum of the bits set of four flags from bit 0 up. -/
def flagsNumber (b0 b1 b2 b3 : Bool) : Nat := b0.toNat + 2 * b1.toNat + 4 * b2.toNat + 8 * b3.toNat

/-- An integer in two's complement of four bytes. -/
def twosComplement (z : Int) : Nat := (z % 4294967296).toNat

/-- The reason of a verdict, none unless it is a reject. -/
def reasonOf (v : Option Verdict) : Option Reason :=
  match v with
  | some (.reject x) => some x
  | _ => none

/-- The part after bytes of the host line, each received without a framing error. -/
def State.afterBytes (s : State) : List Byte → State
  | [] => s
  | b :: bs =>
    match exec (.hostByteReceived b false) s with
    | .next t => t.afterBytes bs
    | .fault _ => s
    | .refused _ => s

/-- The part after a frame whose bytes kept are these is discarded (R182): its SYNC dropped, the frame-error count raised, and the bytes
after the SYNC received again one by one. -/
def State.afterDiscard (s : State) (bytes : List Byte) : State :=
  State.afterBytes
    { s with link := { s.link with
        receiver := ⟨.hunt, []⟩, frameErrors := if s.link.frameErrors < 65535 then s.link.frameErrors + 1 else 65535 } }
    (bytes.drop 1)

/-! ### Buffers -/

/-- The buffers of the Link Port within their sizes: 32 reports and 4 frames (R184, R188). -/
def LinkPort.bounded (k : LinkPort) : Bool :=
  decide (k.queue.length ≤ Config.queueReports) && decide (k.intake.length ≤ Config.intakeFrames)

/-! ### Lanes -/

/-- The verdict of a record is a reject. -/
def ContainerRecord.rejected (r : ContainerRecord) : Bool := Verdict.isReject r.verdict

/-- The record's verdict is ACCEPT. -/
def ContainerRecord.acceptedNow (r : ContainerRecord) : Bool := r.verdict == some .accept

/-- A record with ACCEPT has a class, material and unit value, and only a record with ACCEPT has a destination (R7, R20, R92). -/
def ContainerRecord.fits (r : ContainerRecord) : Bool :=
  if r.acceptedNow then r.cls.isSome && r.material.isSome && r.unitValue.isSome else r.destination.isNone

/-- What a lane's state says of its record (R1). -/
def LaneUnit.recordFits (u : LaneUnit) : Bool :=
  match u.state, u.record with
  | .closed, r | .ready, r | .standby, r | .dormant, r => r.isNone
  | .admitting, some r | .weigh, some r | .query, some r => r.verdict.isNone && r.fits
  | .hold, some r | .handoff, some r => r.acceptedNow && r.fits
  | .returning, some r => r.rejected && r.fits
  | .fault, some r => r.fits
  | .fault, none => true
  | _, none => false

/-- The belt's drive is that of the lane's state (R4). -/
def LaneUnit.beltFits (u : LaneUnit) : Bool :=
  match u.state with
  | .admitting | .handoff => u.belt == .forward
  | .returning => u.belt != .forward
  | _ => u.belt == .off

/-- A profile is followed in ADMIT alone (R34). -/
def LaneUnit.profileFits (u : LaneUnit) : Bool :=
  match u.curtain.phase with
  | .waiting | .passing | .stopping => u.state == .admitting
  | .none | .ended => u.state != .admitting

/-- A CONTAINER run is carried in WEIGH alone; ZERO and SPAN while calibration running is set; AUTO_ZERO in READY (R49, R58, R63). -/
def LaneUnit.runFits (u : LaneUnit) : Bool :=
  match u.weigher.run with
  | .container => u.state == .weigh && !u.calRunning
  | .zero | .span => u.calRunning && u.state == .ready
  | .autoZero => u.state == .ready && !u.calRunning
  | .none => u.state != .weigh && !u.calRunning

/-- A query is in progress in QUERY alone, and names the lane's record (R95, R100). -/
def LaneUnit.queryFits (u : LaneUnit) : Bool :=
  match u.query.subject with
  | some (seq, _) => u.state == .query && u.record.any (fun r => r.seq == seq)
  | none => u.state != .query

/-- The lane's own hold causes stand as its flags and session do, a CLOSED lane holds nothing, and a fault cause is present in FAULT
alone (R1, R6, R10, R11, R14). -/
def LaneUnit.flagsFit (u : LaneUnit) : Bool :=
  (u.holds.closePending == u.closePending) && (u.holds.sessionClosing == (u.session.state == .closing)) &&
  (u.faultCause.isSome == (u.state == .fault)) &&
  (u.isOpen || (u.holds.isEmpty && u.session.state == .none))

/-- Everything that a lane's state says of the lane (R1, R4, R10, R11, R34, R49, R95). -/
def LaneUnit.coherent (u : LaneUnit) : Bool :=
  u.recordFits && u.beltFits && u.profileFits && u.runFits && u.queryFits && u.flagsFit

/-- Every lane is coherent. -/
abbrev State.LanesCoherent (s : State) : Prop := ∀ l : Lane, (s.lane l).coherent = true

/-! ### The Merge Request List and the pocket -/

/-- The pocket is granted to this lane. -/
def Pocket.grantedTo (p : Pocket) (l : Lane) : Bool :=
  match p with
  | .granted l' _ => l' == l
  | _ => false

/-- A LOADED content is a record with ACCEPT (R107). -/
def Pocket.contentFits (p : Pocket) : Bool :=
  match p with
  | .loaded r => r.acceptedNow && r.fits
  | _ => true

/-- The list holds each lane in HOLD once and no other, and the pocket is granted to the lane in HANDOFF and no other (R103, R104,
R105, R108). -/
abbrev State.MergeCoherent (s : State) : Prop :=
  s.requests.Nodup ∧ (∀ l : Lane, l ∈ s.requests ↔ (s.lane l).state = .hold) ∧
  (∀ l : Lane, s.pocket.grantedTo l = true ↔ (s.lane l).state = .handoff) ∧ s.pocket.contentFits = true

/-! ### Reservations, tokens and windows -/

/-- The record's destination is this bin. -/
def heldFor (b : BinId) (r : Option ContainerRecord) : Bool := (r.bind (·.destination)) == some b

/-- The lane records, pocket content and ROUTED tokens that hold a bin as destination (R152). -/
def State.holders (s : State) (b : BinId) : Nat :=
  allLanes.countP (fun l => heldFor b (s.lane l).record) +
  (match s.pocket with
    | .loaded r => if r.destination = some b then 1 else 0
    | _ => 0) +
  allPositions.countP (fun p => (s.tokenAt p).bind (·.destination) == some b)

/-- reserved is the number of holders, 0 outside OPEN and COMPACT_PENDING, and within the room of the bin (R151, R152). -/
abbrev State.ReservationsExact (s : State) : Prop :=
  ∀ b : BinId, (s.bin b).reserved = s.holders b ∧ ((s.bin b).reserved = 0 ∨ (s.bin b).delivers = true) ∧
    (s.bin b).fill + (s.bin b).reserved ≤ (s.bin b).capacity

/-- Every configured bin stands at a position from 1 to 30, and no two at one position (R145, R146). -/
abbrev State.PositionsApart (s : State) : Prop :=
  ∀ b : BinId, (s.bin b).configured = true →
    1 ≤ (s.bin b).position.val ∧ (s.bin b).position.val ≤ 30 ∧
    ∀ b' : BinId, (s.bin b').configured = true → (s.bin b').position = (s.bin b).position → b' = b

/-- A ROUTED token stands before its bin, or at it with the window open; and an open window has its token (R128, R130, R133). -/
abbrev State.WindowsCoherent (s : State) : Prop :=
  (∀ (p : Position) (b : BinId), (s.tokenAt p).bind (·.destination) = some b →
    p < (s.bin b).position ∨ (p = (s.bin b).position ∧ (s.bin b).window = true)) ∧
  (∀ b : BinId, (s.bin b).window = true → (s.tokenAt (s.bin b).position).bind (·.destination) = some b)

/-! ### Flow counters -/

/-- The tokens on the ring. -/
def State.tokenCount (s : State) : Nat := allPositions.countP (fun p => (s.tokenAt p).isSome)

/-- handed_off plus foreign equals the tokens on the ring plus delivered plus caught plus missing, modulo 2^32 (R141). -/
abbrev State.FlowBalances (s : State) : Prop :=
  s.counters.handedOff + s.counters.foreign =
    BitVec.ofNat 32 s.tokenCount + s.counters.delivered + s.counters.caught + s.counters.missing

/-! ### Sessions -/

/-- A line's value is its count times its unit value, and its count is at least 1 (R165). -/
def SessionLine.fits (x : SessionLine) : Bool := decide (1 ≤ x.count) && decide (x.lineValue = x.count * x.unitValue)

/-- The sums and states of a session (R165, R166): the item count and value total are the sums over the lines, the keys are distinct, NONE
holds no line and no reject, OPEN and CLOSING hold a line, a cause is present in CLOSING alone, and a voucher waits in CLOSING
alone. -/
abbrev Session.adds (t : Session) : Prop :=
  t.itemCount = (t.lines.map (·.count)).sum ∧ t.valueTotal = (t.lines.map (·.lineValue)).sum ∧
  (t.lines.map (fun x => (x.cls, x.unitValue))).Nodup ∧ (∀ x ∈ t.lines, x.fits = true) ∧
  (t.lines = [] ↔ t.state = .none) ∧ (t.state = .none → t.rejected = 0) ∧
  (t.cause.isSome = true ↔ t.state = .closing) ∧ (t.voucherWaiting = true → t.state = .closing)

/-- Every lane's session adds up. -/
abbrev State.SessionsAdd (s : State) : Prop := ∀ l : Lane, (s.lane l).session.adds

/-! ### All of it -/

/-- The part's blocks agree with each other. -/
structure State.Sound (s : State) : Prop where
  lanes        : s.LanesCoherent
  merge        : s.MergeCoherent
  reservations : s.ReservationsExact
  positions    : s.PositionsApart
  windows      : s.WindowsCoherent
  flow         : s.FlowBalances
  sessions     : s.SessionsAdd

end Sys2Proof.Machine
end

