-- ==== Sys2Proof/Certificates/Slice0/Obligations.lean ====
section
/-! DEFINITION. The statements about the part, by the rules of spec/ (OBLIGATIONS.json lists them). `s.apart` sets aside what is on its way to
the host and the model's own choice fields; `s.replied f` is s with a reply made; an equation of `apart` is therefore the whole frame. -/

section Slice0Statements

open Sys2Proof Sys2Proof.Machine

/-- The queue that feeds the part is the model's own (note 12); it stands for the order in which R181 and R185 have events come. -/
def Obligations.StepRunsTheFrontRow : Prop :=
  ∀ (c : Instr) (rest : List Instr) (s : State),
    step { s with pending := c :: rest } = exec c { s with pending := rest } ∧
    step { s with pending := [] } = .next { s with pending := [] }

/-- The pin-reset tables together. -/
def Obligations.ResetStateIsSoundAndAtRest : Prop :=
  State.reset.Rests ∧ State.reset.link.bounded = true ∧ State.reset.Sound

/-- Rest is the invariant behind every "at the first event after which" of the manual. -/
def Obligations.EveryStepLeavesThePartAtRest : Prop :=
  ∀ s t : State, s.Rests → step s = .next t → t.Rests

/-- What rest means, rule by rule. -/
def Obligations.RestSaysWhatTheManualSaysOfEveryMoment : Prop :=
  ∀ s : State, s.Ready →
    (∀ l : Lane,
      ((s.lane l).state ≠ .closed → ((s.lane l).holds.conveyor = true ↔
        s.conveyor = .fault ∨ s.conveyor = .halted ∨ s.corner.catchCapacity ≤ s.catchCount ∨ s.pocket = .fault)) ∧
      ((s.lane l).shutterCommand = true → (s.lane l).shutter = true) ∧
      ((s.lane l).shutterCommand = false → (s.lane l).mouth.settled = false → (s.lane l).shutter = false) ∧
      ¬ ((s.lane l).state = .ready ∧ (s.lane l).mouth.settled = true ∧ (s.lane l).holds = ⟨false, false, false, false⟩ ∧
        (s.lane l).calRunning = false) ∧
      ¬ (((s.lane l).state = .standby ∨ (s.lane l).state = .dormant) ∧ (s.lane l).mouth.settled = true ∧
        (s.lane l).holds = ⟨false, false, false, false⟩) ∧
      ¬ ((s.lane l).state ≠ .closed ∧ (s.lane l).closePending = true ∧ (s.lane l).record = none ∧
        (s.lane l).session.state = .none ∧ (s.lane l).calRunning = false) ∧
      ¬ ((s.lane l).session.state = .closing ∧ (s.lane l).session.voucherWaiting = false ∧
        (s.lane l).record.bind (·.verdict) ≠ some .accept)) ∧
    ¬ (s.requests ≠ [] ∧ s.pocket = .empty ∧ s.pocketBeam = false ∧ s.conveyor ≠ .fault ∧ s.conveyor ≠ .halted ∧
      s.catchCount < s.corner.catchCapacity) ∧
    (s.conveyor = .stopped →
      s.requests = [] ∧ (s.pocket = .empty ∨ s.pocket = .fault) ∧ ∀ p : Position, s.tokenAt p = none) ∧
    ((∃ n, s.conveyor = .running n) →
      s.requests ≠ [] ∨ (s.pocket ≠ .empty ∧ s.pocket ≠ .fault) ∨ ∃ p : Position, s.tokenAt p ≠ none) ∧
    (∀ b : BinId, ¬ ((s.bin b).state = .compactPending ∧ (s.bin b).reserved = 0)) ∧
    (s.link.queue.length < 32 → s.link.heldOut = []) ∧
    (s.link.replySlot = none → s.link.intake = []) ∧
    (s.link.transmitter = none → s.link.replySlot = none ∧ s.link.queue = [])

/-- R184 and R188. R146 keeps it, since no other command or event writes a position. -/
def Obligations.BuffersAndBinPositionsStayLawful : Prop :=
  ∀ s t : State, step s = .next t →
    (s.link.bounded = true → t.link.bounded = true) ∧ (s.PositionsApart → t.PositionsApart)

/-- R165 and R166: the sums a voucher carries. -/
def Obligations.SessionTotalsAlwaysAddUp : Prop :=
  ∀ s t : State, s.SessionsAdd → step s = .next t → t.SessionsAdd

/-- R1, R4, R103 and R108 of every moment. -/
def Obligations.LanesStayCoherent : Prop :=
  ∀ s t : State, s.LanesCoherent → s.MergeCoherent → step s = .next t → t.LanesCoherent ∧ t.MergeCoherent

/-- R151 and R152 of every moment. -/
def Obligations.ReservationsAreCountedExactly : Prop :=
  ∀ s t : State, s.LanesCoherent → s.MergeCoherent → s.PositionsApart → s.WindowsCoherent → s.ReservationsExact →
    step s = .next t → t.ReservationsExact ∧ t.WindowsCoherent

/-- R141: the balance of the ring. -/
def Obligations.FlowCountersBalance : Prop :=
  ∀ s t : State, s.LanesCoherent → s.MergeCoherent → s.PositionsApart → s.WindowsCoherent → s.ReservationsExact →
    s.FlowBalances →
    step s = .next t → t.FlowBalances

/-- R203: no bit of a body is dropped. -/
def Obligations.CommandFramesReadBack : Prop :=
  (∀ (i : Instr) (h : CmdHead) (n : Nat) (f : Frame),
      i.wellFormed = true → headOf i = some h → bodyLength i = some n → h.len = n → frameOf i = some f → commandOfFrame f =
        .command i) ∧
    (∀ f : Frame, isCommandKind f.kind = false → frameOf (.unknownKindCommand f) = some f ∧ commandOfFrame f =
      .command (.unknownKindCommand f))

/-- R185 steps 1 to 4, with the lengths of R203, and its step 5 for the flag and the two actions that choose a row (R125, R202, R203). -/
def Obligations.CommandChecksComeInOrder : Prop :=
  (∀ f : Frame, (f.kind = 0x06#8 ∨ f.kind = 0x0C#8 ∨ f.kind = 0x0E#8) → f.body = [] → commandOfFrame f = .refused .badLength) ∧
    (∀ (f : Frame) (x : Byte) (xs : List Byte), f.body = x :: xs →
      (f.kind = 0x06#8 ∧ 1 < x.toNat ∨ f.kind = 0x0C#8 ∧ 3 < x.toNat ∨ f.kind = 0x0E#8 ∧ 4 < x.toNat) →
      commandOfFrame f = .refused .badValue) ∧
    (∀ (f : Frame) (x y z w : Byte),
      (f.kind = 0x0D#8 ∧ f.body = [x] ∧ 1 < x.toNat ∨ f.kind = 0x0A#8 ∧ f.body = [x, y, z, w] ∧ 1 < x.toNat ∨
       f.kind = 0x0C#8 ∧ f.body = [0#8, y, x] ∧ 2 < x.toNat) →
      commandOfFrame f = .refused .badValue) ∧
    (∀ (f : Frame) (x : Byte) (xs : List Byte), f.body = x :: xs →
      (f.kind = 0x06#8 ∧ x.toNat ≤ 1 ∧ f.body.length ≠ 2 ∨
       f.kind = 0x0C#8 ∧ x = 0 ∧ f.body.length ≠ 3 ∨ f.kind = 0x0C#8 ∧ (x = 1 ∨ x = 2) ∧ f.body.length ≠ 1 ∨
       f.kind = 0x0C#8 ∧ x = 3 ∧ f.body.length ≠ 2 ∨
       f.kind = 0x0E#8 ∧ (x = 0 ∨ x = 1 ∨ x = 4) ∧ f.body.length ≠ 2 ∨ f.kind = 0x0E#8 ∧ (x = 2 ∨ x = 3) ∧ f.body.length ≠ 1) →
      commandOfFrame f = .refused .badLength) ∧
    (∀ (f : Frame) (n : Nat),
      (f.kind, n) ∈ [(0x01#8, 17), (0x02#8, 16), (0x03#8, 10), (0x04#8, 36), (0x05#8, 11), (0x07#8, 1), (0x08#8, 3), (0x09#8,
        4),
        (0x0A#8, 4), (0x0B#8, 0), (0x0D#8, 1), (0x0F#8, 1)] →
      f.body.length ≠ n → commandOfFrame f = .refused .badLength) ∧
    (∀ f : Frame, (f.kind.toNat = 0 ∨ 15 < f.kind.toNat) → commandOfFrame f = .command (.unknownKindCommand f))

/-- R182, R184 and R194, with the taking of R185. -/
def Obligations.AFrameIsTakenOrWaits : Prop :=
  (∀ (s : State) (f : Frame) (c : BitVec 16) (i : Instr),
      s.TakesCommands →
      s.link.state = .normal →
      f.body.length ≤ 240 →
      c = BitVec.ofNat 16 (f.body.length + f.kind.toNat + f.tag.toNat + (f.body.map BitVec.toNat).sum) →
      commandOfFrame f = .command i →
      exec (.frameReceived f c) s = exec i { s with
          link := { s.link with
              receiver := ⟨.hunt, []⟩,
              supervision := if s.corner.supervisionTime = 0 then none else some s.corner.supervisionTime } }) ∧
  (∀ (s : State) (f : Frame) (c : BitVec 16) (r : Result),
      s.TakesCommands →
      s.link.state = .normal →
      f.body.length ≤ 240 →
      c = BitVec.ofNat 16 (f.body.length + f.kind.toNat + f.tag.toNat + (f.body.map BitVec.toNat).sum) →
      commandOfFrame f = .refused r →
      exec (.frameReceived f c) s = .next (({ s with
          link := { s.link with
              receiver := ⟨.hunt, []⟩,
              supervision := if s.corner.supervisionTime = 0 then none else some s.corner.supervisionTime } }).replied
          (replyFrame f.kind f.tag r []))) ∧
  (∀ (s : State) (f : Frame) (c : BitVec 16) (g : Frame),
      s.Ready →
      s.link.state = .normal →
      f.body.length ≤ 240 →
      c = BitVec.ofNat 16 (f.body.length + f.kind.toNat + f.tag.toNat + (f.body.map BitVec.toNat).sum) →
      s.link.replySlot = some g →
      s.link.intake.length < 4 →
      exec (.frameReceived f c) s = .next ({ s with
          link := { s.link with
              receiver := ⟨.hunt, []⟩,
              supervision := if s.corner.supervisionTime = 0 then none else some s.corner.supervisionTime,
              intake := s.link.intake ++ [f] } })) ∧
  (∀ (s : State) (f : Frame) (c : BitVec 16) (g : Frame),
      s.Ready →
      s.link.state = .normal →
      f.body.length ≤ 240 →
      c = BitVec.ofNat 16 (f.body.length + f.kind.toNat + f.tag.toNat + (f.body.map BitVec.toNat).sum) →
      s.link.replySlot = some g →
      4 ≤ s.link.intake.length →
      ∃ t, exec (.frameReceived f c) s = .next t ∧
        t.apart = ({ s with
            link := { s.link with
                receiver := ⟨.hunt, []⟩,
                supervision := if s.corner.supervisionTime = 0 then none else some s.corner.supervisionTime,
                overruns := if s.link.overruns < 65535 then s.link.overruns + 1 else 65535 } }).apart ∧
        t.Told (.link ⟨.overrun, .normal, s.link.frameErrors, t.link.overruns⟩)) ∧
  (∀ (s : State) (f : Frame) (c : BitVec 16),
      s.Ready →
      f.body.length ≤ 240 →
      f.body.length ≠ 165 →
      c ≠ BitVec.ofNat 16 (f.body.length + f.kind.toNat + f.tag.toNat + (f.body.map BitVec.toNat).sum) →
      (∀ x ∈ f.kind :: f.tag :: (f.body ++ [BitVec.ofNat 8 c.toNat, BitVec.ofNat 8 (c.toNat / 256)]), x ≠ 0xA5#8) →
      ∃ t, exec (.frameReceived f c) s = .next t ∧
        t.apart = ({ s with
            link := { s.link with
                receiver := ⟨.hunt, []⟩, frameErrors := if s.link.frameErrors < 65535 then s.link.frameErrors + 1 else 65535 } }).apart
            ∧
        t.Told (.link ⟨.frameError, s.link.state, t.link.frameErrors, s.link.overruns⟩)) ∧
  (∀ (s : State) (i : Instr) (f g : Frame),
      s.Ready →
      frameOf i = some f →
      s.link.replySlot = some g →
      s.link.intake.length < 4 →
      exec i s = .next ({ s with link := { s.link with intake := s.link.intake ++ [f] } })) ∧
  (∀ (s : State) (i : Instr) (f g : Frame),
      s.Ready →
      frameOf i = some f →
      s.link.replySlot = some g →
      4 ≤ s.link.intake.length →
      ∃ t, exec i s = .next t ∧
        t.apart = ({ s with
            link := { s.link with overruns := if s.link.overruns < 65535 then s.link.overruns + 1 else 65535 } }).apart ∧
        t.Told (.link ⟨.overrun, s.link.state, s.link.frameErrors, t.link.overruns⟩))

/-- R181 and R182 for a whole frame. -/
def Obligations.BytesOfAFrameMakeItsCompletion : Prop :=
  ∀ (s : State) (f : Frame) (c : BitVec 16) (init : List Byte) (b : Byte),
    s.Ready → s.link.receiver = ⟨.hunt, []⟩ → f.body.length ≤ 240 → wireWith f c = init ++ [b] →
    exec (.hostByteReceived b false) (s.afterBytes init) = exec (.frameReceived f c) s

/-- R28, R31 and R33. -/
def Obligations.BeamsSettleAndGroupIntoRuns : Prop :=
  (∀ (x : Scan) (r : Nat), r < 8 →
      (scanBeams x).getLsbD r = !x.lit0.getLsbD r ∧ (scanBeams x).getLsbD (8 + r) = !x.lit1.getLsbD r ∧
      (scanBeams x).getLsbD (16 + r) = !x.lit2.getLsbD r ∧ (scanBeams x).getLsbD (24 + r) = !x.lit3.getLsbD r) ∧
    (∀ (c : Curtain) (raw : BitVec 32) (i : Nat), i < 32 →
      (c.debounce raw).settled.getLsbD i =
        (if raw.getLsbD i ≠ c.settled.getLsbD i ∧ c.pending.getLsbD i = true then raw.getLsbD i else c.settled.getLsbD i) ∧
      ((c.debounce raw).pending.getLsbD i = true ↔ raw.getLsbD i ≠ c.settled.getLsbD i ∧ c.pending.getLsbD i = false)) ∧
    (∀ b : BitVec 32,
      (∀ i, b.getLsbD i = true → ∃ r ∈ runsOf b, r.1 ≤ i ∧ i ≤ r.2) ∧
      (∀ r ∈ runsOf b, r.1 ≤ r.2 ∧ r.2 < 32 ∧ b.getLsbD r.1 = true ∧ b.getLsbD r.2 = true ∧ 1 ≤ runExtent r ∧ runExtent r ≤ 32 ∧
        ∀ i, r.1 ≤ i → i < r.2 → b.getLsbD i = true ∨ b.getLsbD (i + 1) = true) ∧
      (runsOf b).Pairwise (fun r r' => r.2 + 2 < r'.1))

/-- R42 and R43. The characters are taken in ASCII (note 23). -/
def Obligations.LinesAreJudgedByTheirCheckDigit : Prop :=
  (∀ line : List Byte, judgeLine true line = .malformed) ∧
    (∀ line : List Byte, line.length ≠ 8 → line.length ≠ 13 → judgeLine false line = .malformed) ∧
    (∀ (line : List Byte) (c : Byte), c ∈ line → (c.toNat < 0x30 ∨ 0x39 < c.toNat) → judgeLine false line = .malformed) ∧
    (∀ ds : List Nat, (∀ d ∈ ds, d ≤ 9) → (ds.length = 8 ∨ ds.length = 13) →
      judgeLine false (ds.map (fun d => BitVec.ofNat 8 (0x30 + d))) =
        (if ds.getLast? = some ((10 - ((ds.dropLast.reverse.zipIdx.map (fun x => if x.2 % 2 = 0 then 3 * x.1
          else x.1)).sum % 10)) % 10)
          then .good ⟨ds.length, ds.foldl (fun n d => 10 * n + d) 0⟩ else .badRead) ∧
      ds.foldl (fun n d => 10 * n + d) 0 < 10 ^ ds.length)

/-- R53 to R55, R60 and R64. -/
def Obligations.WeighingArithmeticRoundsToNearest : Prop :=
  (∀ (n : Int) (k : Nat), n ≤ 0 → weightOf n k = 0) ∧
    (∀ n k : Nat, 0 < n →
      (weightOf n k < 20000 →
        16777216 * weightOf n k ≤ n * k + 8388608 ∧ n * k + 8388608 < 16777216 * (weightOf n k + 1)) ∧
      (weightOf n k = 20000 ↔ 16777216 * 20000 ≤ n * k + 8388608) ∧ weightOf n k ≤ 20000) ∧
    (∀ m n : Nat, 0 < n → spanOf m n * n ≤ m * 16777216 + n / 2 ∧ m * 16777216 + n / 2 < (spanOf m n + 1) * n) ∧
    (∀ (n : Int) (k : Nat),
      16777216 * driftOf n k ≤ n.natAbs * k + 8388608 ∧ n.natAbs * k + 8388608 < 16777216 * (driftOf n k + 1)) ∧
    (∀ (d : Nat) (g : Gain),
      (16 ≤ d * g.factor → stabilityLimit d g = d * g.factor / 16) ∧ (d * g.factor < 16 → stabilityLimit d g = 1)) ∧
    (Gain.g16.factor = 16 ∧ Gain.g4.factor = 4 ∧ Gain.g1.factor = 1) ∧
    (∀ l : List Int, l.length = 16 → (∀ x ∈ l, -32768 ≤ x ∧ x ≤ 32767) →
      normalised l .g16 = l.sum ∧ normalised l .g4 = 4 * l.sum ∧ normalised l .g1 = 16 * l.sum ∧
      -524288 ≤ l.sum ∧ l.sum ≤ 524272 ∧
      ∀ g : Gain, -8388608 ≤ normalised l g ∧ normalised l g ≤ 8388352)

/-- R71 and R72, with the unknown outcome of R73. The lookup is a function of the windows alone, so it consults no class. -/
def Obligations.LookupExcludesThenIncludes : Prop :=
  ∀ (s : State) (k : Code),
    (s.lookup k = .excluded ↔ ∃ n : Fin 64, s.windows[n].enabled = true ∧ s.windows[n].kind = .excludes ∧
      s.windows[n].length = k.length ∧ s.windows[n].low ≤ k.value ∧ k.value ≤ s.windows[n].high) ∧
    (∀ c : ClassId, s.lookup k = .found c ↔ s.lookup k ≠ .excluded ∧ ∃ n : Fin 64, s.windows[n].cls = c ∧
      (s.windows[n].enabled = true ∧ s.windows[n].kind = .includes ∧
        s.windows[n].length = k.length ∧ s.windows[n].low ≤ k.value ∧ k.value ≤ s.windows[n].high) ∧
      ∀ m : Fin 64, m < n → ¬ (s.windows[m].enabled = true ∧ s.windows[m].kind = .includes ∧
        s.windows[m].length = k.length ∧ s.windows[m].low ≤ k.value ∧ k.value ≤ s.windows[m].high)) ∧
    (∀ (s' : State), s'.windows = s.windows → s'.lookup k = s.lookup k)

/-- R153 and R154. -/
def Obligations.DestinationIsPreferredThenRoomiest : Prop :=
  ∀ (s : State) (m : Material) (p : Option BinId),
    (∀ b : BinId, (s.bin b).eligible m = true ↔
      (s.bin b).state = .opened ∧ (s.bin b).materials.has m = true ∧ (s.bin b).fill + (s.bin b).reserved < (s.bin b).capacity) ∧
    (s.chooseBin m p = none ↔ ∀ b : BinId, (s.bin b).eligible m = false) ∧
    (∀ b : BinId, p = some b → (s.bin b).eligible m = true → s.chooseBin m p = some b) ∧
    (∀ b : BinId, s.chooseBin m p = some b → (∀ q : BinId, p = some q → (s.bin q).eligible m = false) →
      (s.bin b).eligible m = true ∧
      ∀ b' : BinId, b' ≠ b → (s.bin b').eligible m = true →
        (s.bin b').freeRoom < (s.bin b).freeRoom ∨ ((s.bin b').freeRoom = (s.bin b).freeRoom ∧ b < b'))

/-- R85, R89 and R90, and the credit of R166. -/
def Obligations.ClassChecksComeInOrder : Prop :=
  ∀ (s : State) (l : Lane) (r : ContainerRecord) (c : ClassId) (w d n : Nat),
    r.weighing = some (.weight w) → r.diameter = some d → r.length = some n → (s.lane l).session.adds →
    s.classReason l r c =
      (if (s.classAt c).enabled = false then some .classOff
      else if w < (s.classAt c).weightMin then some .underweight
      else if (s.classAt c).weightMax < w then some .overweight
      else if d < (s.classAt c).diameterMin ∨ (s.classAt c).diameterMax < d ∨ n < (s.classAt c).lengthMin ∨
          (s.classAt c).lengthMax < n then some .shape
      else if (s.lane l).config.itemCap < (s.lane l).session.itemCount + 1 ∨
          (s.lane l).config.valueCap < (s.lane l).session.valueTotal + (s.classAt c).deposit ∨
          ((∀ x ∈ (s.lane l).session.lines, ¬ (x.cls = c ∧ x.unitValue = (s.classAt c).deposit)) ∧
            12 ≤ (s.lane l).session.lines.length) then some .limit
      else none) ∧
    (s.classReason l r c = none → (s.lane l).session.lines.length ≤ 12 →
      ((s.lane l).session.credited c (s.classAt c).deposit).adds ∧
      ((s.lane l).session.credited c (s.classAt c).deposit).state ≠ .none ∧
      ((s.lane l).session.credited c (s.classAt c).deposit).itemCount = (s.lane l).session.itemCount + 1 ∧
      ((s.lane l).session.credited c (s.classAt c).deposit).valueTotal =
        (s.lane l).session.valueTotal + (s.classAt c).deposit ∧
      ((s.lane l).session.credited c (s.classAt c).deposit).itemCount ≤ (s.lane l).config.itemCap ∧
      ((s.lane l).session.credited c (s.classAt c).deposit).valueTotal ≤ (s.lane l).config.valueCap ∧
      ((s.lane l).session.credited c (s.classAt c).deposit).lines.length ≤ 12)

/-- R181 and the discards of R182. R183, with the discard of R182. A row of a timer that does not run changes nothing (note 18). A byte with a framing error is itself dropped (note 21). -/
def Obligations.ReceiverTakesBytesAndTimesOut : Prop :=
  (∀ (s : State) (b : Byte),
      s.Ready →
      s.link.receiver.phase = .hunt →
      b = 0xA5#8 →
      exec (.hostByteReceived b false) s = .next ({ s with link := { s.link with receiver := ⟨.len, [b]⟩ } })) ∧
  (∀ (s : State) (b : Byte) (e : Bool),
      s.Ready →
      s.link.receiver.phase = .hunt →
      (b ≠ 0xA5#8 ∨ e = true) →
      exec (.hostByteReceived b e) s = .next s) ∧
  (∀ (s : State) (b : Byte),
      s.Ready →
      s.link.receiver.phase = .len →
      b.toNat ≤ 240 →
      exec (.hostByteReceived b false) s = .next ({ s with
          link := { s.link with receiver := ⟨.kind, s.link.receiver.kept ++ [b]⟩ } })) ∧
  (∀ (s : State) (b : Byte),
      s.Ready →
      s.link.receiver.phase = .kind →
      exec (.hostByteReceived b false) s = .next ({ s with
          link := { s.link with receiver := ⟨.tag, s.link.receiver.kept ++ [b]⟩ } })) ∧
  (∀ (s : State) (b : Byte),
      s.Ready →
      s.link.receiver.phase = .tag →
      exec (.hostByteReceived b false) s = .next ({ s with
          link := { s.link with
              receiver := ⟨if fieldAt s.link.receiver.kept 1 1 = 0 then .check else .body, s.link.receiver.kept ++ [b]⟩ } })) ∧
  (∀ (s : State) (b : Byte),
      s.Ready →
      s.link.receiver.phase = .body →
      exec (.hostByteReceived b false) s = .next ({ s with
          link := { s.link with
              receiver := ⟨if s.link.receiver.kept.length = 3 + fieldAt s.link.receiver.kept 1 1 then .check else .body,
                s.link.receiver.kept ++ [b]⟩ } })) ∧
  (∀ (s : State) (b : Byte),
      s.Ready →
      s.link.receiver.phase = .check →
      s.link.receiver.kept.length ≠ 5 + fieldAt s.link.receiver.kept 1 1 →
      exec (.hostByteReceived b false) s = .next ({ s with
          link := { s.link with receiver := ⟨.check, s.link.receiver.kept ++ [b]⟩ } })) ∧
  (∀ (s : State) (b : Byte) (e : Bool),
      s.Ready →
      (s.link.receiver.phase = .len ∧ (240 < b.toNat ∨ e = true) ∨ s.link.receiver.phase = .kind ∧ e = true ∨
        s.link.receiver.phase = .tag ∧ e = true ∨ s.link.receiver.phase = .body ∧ e = true ∨ s.link.receiver.phase = .check ∧
        e = true) →
      (∀ x ∈ s.link.receiver.kept.drop 1, x ≠ 0xA5#8) →
      ∃ t, exec (.hostByteReceived b e) s = .next t ∧
        t.apart = ({ s with
            link := { s.link with
                receiver := ⟨.hunt, []⟩, frameErrors := if s.link.frameErrors < 65535 then s.link.frameErrors + 1 else 65535 } }).apart
            ∧
        t.Told (.link ⟨.frameError, s.link.state, t.link.frameErrors, s.link.overruns⟩)) ∧
  (∀ (s : State),
      s.Ready →
      s.link.receiver.phase = .hunt →
      exec .interByteTimeout s = .next s) ∧
  (∀ (s : State),
      s.Ready →
      s.link.receiver.phase ≠ .hunt →
      (∀ x ∈ s.link.receiver.kept.drop 1, x ≠ 0xA5#8) →
      ∃ t, exec .interByteTimeout s = .next t ∧
        t.apart = ({ s with
            link := { s.link with
                receiver := ⟨.hunt, []⟩, frameErrors := if s.link.frameErrors < 65535 then s.link.frameErrors + 1 else 65535 } }).apart
            ∧
        t.Told (.link ⟨.frameError, s.link.state, t.link.frameErrors, s.link.overruns⟩))

/-- R194 and R195, with R184, R185, R188 and R193. That an overrun after the restoration names the report is note 6, the free order with the command's reports notes 1 and 24, the coming together with the next row note 26. A row of a timer that does not run changes nothing (note 18). -/
def Obligations.LinkLossHoldsEveryLane : Prop :=
  (∀ (s : State) (n : Nat),
      s.Ready →
      s.link.supervision = some n →
      s.corner.supervisionTime ≠ 0 →
      ¬ (s.link.state = .normal ∧ s.goodFrameNext = true) →
      ∃ t, exec .linkLost s = .next t ∧
        t.apart = ({ s with
            lanes := s.lanes.map (fun u : LaneUnit => if u.isOpen then LaneUnit.syncShutter { u with
                holds := { u.holds with link := true } } else u),
            link := { s.link with state := .lost, supervision := none } }).apart ∧
        t.Told (.link ⟨.linkLost, .lost, s.link.frameErrors, s.link.overruns⟩)) ∧
  (∀ (s : State) (n : Nat),
      s.Ready →
      s.link.supervision = some n →
      s.corner.supervisionTime ≠ 0 →
      s.link.state = .normal →
      s.goodFrameNext = true →
      ∃ t, exec .linkLost s = .next t ∧
        (t.apart = ({ s with
            lanes := s.lanes.map (fun u : LaneUnit => if u.isOpen then LaneUnit.syncShutter { u with
                holds := { u.holds with link := true } } else u),
            link := { s.link with state := .lost, supervision := none } }).apart
            ∧ t.Told (.link ⟨.linkLost, .lost, s.link.frameErrors, s.link.overruns⟩) ∨ t.apart = ({ s with
                link := { s.link with state := .expiring } }).apart ∧ t.link = { s.link with state := .expiring })) ∧
  (∀ (s : State) (n : Nat),
      s.Ready →
      s.link.supervision = some n →
      s.corner.supervisionTime = 0 →
      exec .linkLost s = .next ({ s with link := { s.link with supervision := none } })) ∧
  (∀ (s : State),
      s.Ready →
      s.link.supervision = none →
      exec .linkLost s = .next s) ∧
  (∀ (s : State) (f g : Frame),
      s.Ready →
      (s.link.state = .lost ∨ s.link.state = .expiring) →
      f.body.length ≤ 240 →
      s.link.replySlot = some g →
      s.link.intake.length < 4 →
      ∃ t, exec (.frameReceived f (checkOfFrame f)) s = .next t ∧
        t.link.state = .normal ∧
        (∀ l : Lane, (t.lane l).isOpen = true → (t.lane l).holds.link = false) ∧
        t.link.supervision = (if s.corner.supervisionTime = 0 then none else some s.corner.supervisionTime) ∧
        t.link.intake = s.link.intake ++ [f] ∧
        t.Told (.link ⟨.linkRestored, .normal, s.link.frameErrors, s.link.overruns⟩) ∧
        (∀ r ∈ t.link.queue, Report.isOf .link r = true → r = (.link ⟨.linkRestored, .normal, s.link.frameErrors,
          s.link.overruns⟩)) ∧
        t.link.transmitter = s.link.transmitter ∧
        (∀ l : Lane, (t.lane l).keptPart = (s.lane l).keptPart)) ∧
  (∀ (s : State) (f g : Frame),
      s.Ready →
      (s.link.state = .lost ∨ s.link.state = .expiring) →
      f.body.length ≤ 240 →
      s.link.replySlot = some g →
      4 ≤ s.link.intake.length →
      ∃ t, exec (.frameReceived f (checkOfFrame f)) s = .next t ∧
        t.link.state = .normal ∧
        (∀ l : Lane, (t.lane l).isOpen = true → (t.lane l).holds.link = false) ∧
        t.link.supervision = (if s.corner.supervisionTime = 0 then none else some s.corner.supervisionTime) ∧
        t.link.intake = s.link.intake ∧
        t.link.overruns = (if s.link.overruns < 65535 then s.link.overruns + 1 else 65535) ∧
        t.Told (.link ⟨.overrun, .normal, s.link.frameErrors, t.link.overruns⟩) ∧
        (∀ r ∈ t.link.queue, Report.isOf .link r = true → r = (.link ⟨.overrun, .normal, s.link.frameErrors,
          t.link.overruns⟩)) ∧
        t.link.transmitter = s.link.transmitter ∧
        (∀ l : Lane, (t.lane l).keptPart = (s.lane l).keptPart)) ∧
  (∀ (s : State) (f g h : Frame) (i : Instr),
      s.Ready →
      s.LanesCoherent →
      s.link.replySlot = none →
      (s.link.state = .lost ∨ s.link.state = .expiring) →
      f.body.length ≤ 240 →
      commandOfFrame f = .command i →
      ∃ t, exec (.frameReceived f (checkOfFrame f)) s = .next t ∧
        t.link.state = .normal ∧
        (∀ l : Lane, (t.lane l).isOpen = true → (t.lane l).holds.link = false) ∧
        t.link.supervision = (if s.corner.supervisionTime = 0 then none else some s.corner.supervisionTime) ∧
        ∃ (u : State) (now later : List Made) (c : List Nat) (d : Nat), exec (.frameReceived f (checkOfFrame f)) { s with
            link := { s.link with transmitter := some h, replySlot := some g } }
            = .next u ∧ u.Told (.link ⟨.linkRestored, .normal, s.link.frameErrors, s.link.overruns⟩) ∧ (∀ r ∈ u.link.queue,
              Report.isOf .link r = true → r = (.link ⟨.linkRestored, .normal, s.link.frameErrors, s.link.overruns⟩)) ∧
              .link .linkRestored ∈ now ++ later ∧ (∀ m ∈ now ++ later, m = .link .linkRestored ∨ ∃ l : Lane, m = .lane l) ∧
              (∀ l : Lane, u.laneReport l ≠ s.laneReport l → .lane l ∈ now ++ later) ∧ exec i (s.takingOver u now later c d) =
              .next t) ∧
  (∀ (s : State) (f g h : Frame) (x : Result),
      s.Ready →
      s.link.replySlot = none →
      (s.link.state = .lost ∨ s.link.state = .expiring) →
      f.body.length ≤ 240 →
      commandOfFrame f = .refused x →
      ∃ t, exec (.frameReceived f (checkOfFrame f)) s = .next t ∧
        t.link.state = .normal ∧
        (∀ l : Lane, (t.lane l).isOpen = true → (t.lane l).holds.link = false) ∧
        t.link.supervision = (if s.corner.supervisionTime = 0 then none else some s.corner.supervisionTime) ∧
        ∃ u, exec (.frameReceived f (checkOfFrame f)) { s with link := { s.link with transmitter := some h, replySlot := some g } } = .next u ∧ u.Told (.link ⟨.linkRestored, .normal, s.link.frameErrors, s.link.overruns⟩) ∧ (∀ r ∈ u.link.queue, Report.isOf .link r = true → r = (.link ⟨.linkRestored, .normal, s.link.frameErrors, s.link.overruns⟩)) ∧ t = ({ u with
            link := { u.link with transmitter := s.link.transmitter, replySlot := none, intake := [] } }).replied
            (replyFrame f.kind f.tag x []))

/-- R185, R187, R190, R192, R199 step 1 and R201. -/
def Obligations.TransmitterSendsReplyThenReports : Prop :=
  (∀ (s : State) (f g : Frame),
      s.Ready →
      s.link.transmitter = some f →
      s.link.replySlot = some g →
      s.link.intake = [] →
      exec .frameTransmitted s = .next ({ s with link := { s.link with transmitter := some g, replySlot := none } })) ∧
  (∀ (s : State) (f g h : Frame) (q : List Frame) (i : Instr),
      s.Ready →
      s.link.transmitter = some f →
      s.link.replySlot = some g →
      s.link.intake = h :: q →
      commandOfFrame h = .command i →
      ∃ t, exec .frameTransmitted s = .next t ∧
        ∃ u, exec i { s with link := { s.link with transmitter := some g, replySlot := none, intake := [] } } = .next u ∧ t =
          { u with
            link := { u.link with
                intake := if h.kind = 0x0F#8 ∧ u.link.replySlot = some (replyFrame 0x0F#8 h.tag .ok []) then [] else q } }) ∧
  (∀ (s : State) (f g h : Frame) (q : List Frame) (x : Result),
      s.Ready →
      s.link.transmitter = some f →
      s.link.replySlot = some g →
      s.link.intake = h :: q →
      commandOfFrame h = .refused x →
      exec .frameTransmitted s = .next ({ s with
          link := { s.link with transmitter := some g, replySlot := some (replyFrame h.kind h.tag x []), intake := q } })) ∧
  (∀ (s : State) (f : Frame) (r : Report) (q : List Report),
      s.Ready →
      s.link.transmitter = some f →
      s.link.replySlot = none →
      s.link.queue = r :: q →
      s.link.heldOut = [] →
      exec .frameTransmitted s = .next ({ s with
          link := { s.link with
              transmitter := some ⟨r.kind, if s.link.lost then 1 else 0, r.body⟩, queue := q, lost := false } })) ∧
  (∀ (s : State) (f : Frame) (r x : Report) (q h : List Report),
      s.Ready →
      s.link.transmitter = some f →
      s.link.replySlot = none →
      s.link.queue = r :: q →
      s.link.queue.length = 32 →
      s.link.heldOut = x :: h →
      x.treatment ≠ .waiting →
      exec .frameTransmitted s = .next ({ s with
          link := { s.link with
              transmitter := some ⟨r.kind, if s.link.lost then 1 else 0, r.body⟩, queue := q ++ [x], heldOut := h,
              lost := false } })) ∧
  (∀ (s : State),
      s.Ready →
      s.link.replySlot = none →
      s.link.queue = [] →
      exec .frameTransmitted s = .next ({ s with link := { s.link with transmitter := none } }))

/-- R188 to R191; R205 and R206; R3, R4, R121 and R147; R181 to R183. The order of offering is note 1, the done flag of a bin note 17, the byte with a framing error note 21. -/
def Obligations.WhatLeavesThePartFollowsItsTables : Prop :=
  (∀ (k : LinkPort) (x : ContainerReport),
      k.offer (.container x) = if k.queue.length < 32 then { k with
          queue := k.queue ++ [.container x] } else { k with lost := true }) ∧
  (∀ (k : LinkPort) (e : RingEvent) (n : Nat),
      k.offer (.ring e n) = if k.queue.length < 32 then { k with
          queue := k.queue ++ [.ring e n] } else { k with lost := true }) ∧
  (∀ (k : LinkPort) (r : Report), (∃ l n c, r = .codeQuery l n c) ∨ (∃ v, r = .voucher v) →
      k.offer r = if k.queue.length < 32 then { k with queue := k.queue ++ [r] } else { k with heldOut := k.heldOut ++ [r] }) ∧
  (∀ (k : LinkPort) (r : Report), r.sameSubject r = true →
      k.offer r =
        if k.queue.any (·.sameSubject r) then { k with queue := k.queue.map (fun q => if q.sameSubject r then r else q) }
        else if k.heldOut.any (·.sameSubject r) then
          { k with heldOut := k.heldOut.map (fun q => if q.sameSubject r then r else q) }
        else if k.queue.length < 32 then { k with queue := k.queue ++ [r] }
        else { k with heldOut := k.heldOut ++ [r] }) ∧
  (∀ s : State, ∃ order : List Made, order.Perm s.outbox ∧ s.flush.link = (order.map s.reportOf).foldl LinkPort.offer s.link) ∧
  (∀ x : ContainerReport, (Report.container x).kind = 0x81#8 ∧
      LaidOut (Report.container x).body 20
        [(0, 1, x.lane.val), (1, 2, x.seq), (3, 1, (x.code.map (·.length)).getD 0), (4, 6, (x.code.map (·.value)).getD 0),
          (10, 1, (x.cls.map (·.val)).getD 0xFF), (11, 2, x.weight.getD 0xFFFF), (13, 1, x.diameter.getD 0xFF),
          (14, 2, x.length.getD 0xFFFF), (16, 1, gainNumber x.gain), (17, 1, if x.verdict = .accept then 0 else 1),
          (18, 1, rejectReasons.idxOf (reasonOf (some x.verdict))), (19, 1, (x.destination.map (·.val)).getD 0xFF)]) ∧
  (∀ (l : Lane) (n : Nat) (c : Code), (Report.codeQuery l n c).kind = 0x82#8 ∧
      LaidOut (Report.codeQuery l n c).body 10 [(0, 1, l.val), (1, 2, n), (3, 1, c.length), (4, 6, c.value)]) ∧
  (∀ x : VoucherReport, (Report.voucher x).kind = 0x83#8 ∧
      LaidOut (Report.voucher x).body (13 + 9 * x.lines.length)
        [(0, 1, x.lane.val), (1, 2, x.number), (3, 1, closeCauses.idxOf x.cause), (4, 1, x.lines.length), (5, 2, x.itemCount),
          (7, 4, x.valueTotal), (11, 2, x.rejected)] ∧
      ∀ (i : Nat) (y : SessionLine), x.lines[i]? = some y →
        LaidOut (Report.voucher x).body (13 + 9 * x.lines.length)
          [(13 + 9 * i, 1, y.cls.val), (14 + 9 * i, 2, y.unitValue), (16 + 9 * i, 2, y.count), (18 + 9 * i, 4, y.lineValue)]) ∧
  (∀ x : LaneReport, (Report.lane x).kind = 0x84#8 ∧
      LaidOut (Report.lane x).body 7
        [(0, 1, x.lane.val), (1, 1, laneStates.idxOf x.state), (2, 1, laneFaults.idxOf x.faultCause),
          (3, 1, flagsNumber x.holds.link x.holds.conveyor x.holds.sessionClosing x.holds.closePending),
          (4, 1, x.closePending.toNat), (5, 2, x.lastWithdrawn)]) ∧
  (∀ x : BinReport, (Report.bin x).kind = 0x85#8 ∧
      LaidOut (Report.bin x).body 14
        [(0, 1, x.bin.val), (1, 1, binEvents.idxOf x.event), (2, 1, binStates.idxOf x.state), (3, 1,
          binFaults.idxOf x.faultCause),
          (4, 2, x.fill), (6, 2, x.reserved), (8, 1, x.nearFull.toNat), (9, 2, x.strayIns), (11, 1, seatings.idxOf x.seating),
          (12, 2, x.removalFill.getD 0xFFFF)]) ∧
  (∀ (k : Token) (p : Position) (b : BinId) (c : StrayCause) (n : Nat), (Report.ring (.stray k p b c) n).kind = 0x86#8 ∧
      LaidOut (Report.ring (.stray k p b c) n).body 9
        [(0, 1, 0), (1, 1, originNumber k.origin), (2, 2, k.seq.getD 0), (4, 1, (k.cls.map (·.val)).getD 0xFF), (5, 1, p.val),
          (6, 1, b.val), (7, 1, [StrayCause.unconfirmed, .notDiverted, .noReroute].idxOf c + 1), (8, 1, n)]) ∧
  (∀ (k : Token) (n : Nat),
      LaidOut (Report.ring (.caught k) n).body 9
        [(0, 1, 1), (1, 1, originNumber k.origin), (2, 2, k.seq.getD 0), (4, 1, (k.cls.map (·.val)).getD 0xFF), (5, 1, 0xFF),
          (6, 1, 0xFF), (7, 1, 0), (8, 1, n)] ∧
      LaidOut (Report.ring (.missing k) n).body 9
        [(0, 1, 2), (1, 1, originNumber k.origin), (2, 2, k.seq.getD 0), (4, 1, (k.cls.map (·.val)).getD 0xFF), (5, 1, 0xFF),
          (6, 1, 0xFF), (7, 1, 0), (8, 1, n)] ∧
      LaidOut (Report.ring .phantom n).body 9
        [(0, 1, 3), (1, 1, 0xFF), (2, 2, 0), (4, 1, 0xFF), (5, 1, 0xFF), (6, 1, 0xFF), (7, 1, 0), (8, 1, n)]) ∧
  (∀ x : ConveyorReport, (Report.conveyor x).kind = 0x87#8 ∧
      LaidOut (Report.conveyor x).body 6
        [(0, 1, conveyorNumber x.conveyor), (1, 1, if x.conveyor = .fault then 1 else 0), (2, 1, pocketNumber x.pocket),
          (3, 1, if x.pocket = .fault then 1 else 0), (4, 1, x.catchCount), (5, 1, x.trayFull.toNat)]) ∧
  (∀ x : CalReport, (Report.calibration x).kind = 0x88#8 ∧
      LaidOut (Report.calibration x).body 13
        [(0, 1, x.lane.val), (1, 1, calOperations.idxOf x.operation), (2, 1, calOutcomes.idxOf x.outcome),
          (3, 4, twosComplement x.zero), (7, 2, x.span), (9, 4, x.drift.getD 0xFFFFFFFF)]) ∧
  (∀ x : LinkReport, (Report.link x).kind = 0x89#8 ∧
      LaidOut (Report.link x).body 6
        [(0, 1, linkEvents.idxOf x.event), (1, 1, if x.link = .lost then 1 else 0), (2, 2, x.frameErrors), (4, 2,
          x.overruns)]) ∧
  (∀ (s : State) (l : Lane),
      LaidOut (s.laneData l) 53
        [(0, 1, laneStates.idxOf (s.lane l).state), (1, 1, laneFaults.idxOf (s.lane l).faultCause),
          (2, 1, flagsNumber (s.lane l).holds.link (s.lane l).holds.conveyor (s.lane l).holds.sessionClosing
            (s.lane l).holds.closePending),
          (3, 1, flagsNumber (s.lane l).closePending (s.lane l).coldStart (s.lane l).calRunning false),
          (4, 2, (s.lane l).nextSeq), (6, 2, (s.lane l).lastWithdrawn), (8, 1, (s.lane l).config.beltPitch),
          (9, 2, (s.lane l).config.stopDistance), (11, 2, (s.lane l).config.maxLength), (13, 1, (s.lane l).config.settleCount),
          (14, 2, (s.lane l).config.stabilityLimit), (16, 1, (s.lane l).config.attempts),
          (17, 2, (s.lane l).config.autoZeroInterval), (19, 1, (s.lane l).config.zeroBand),
          (20, 1, (s.lane l).config.queryEnabled.toNat), (21, 2, (s.lane l).config.itemCap), (23, 4,
            (s.lane l).config.valueCap),
          (27, 2, (s.lane l).config.standbyTime), (29, 2, (s.lane l).config.dormantTime),
          (31, 2, (s.lane l).config.sessionIdleTime), (33, 2, (s.lane l).config.handoffTime),
          (35, 2, (s.lane l).config.returnTravel), (37, 4, twosComplement (s.lane l).zero), (41, 2, (s.lane l).span),
          (43, 4, (s.lane l).curtain.settled.toNat), (47, 1, (s.lane l).mouth.settled.toNat),
          (48, 2, ((s.lane l).record.map (·.seq)).getD 0),
          (50, 1, match (s.lane l).verdict with
            | none => 0xFF
            | some .accept => 0
            | some (.reject _) => 1),
          (51, 1, rejectReasons.idxOf (reasonOf (s.lane l).verdict)),
          (52, 1, (((s.lane l).record.bind (·.destination)).map (·.val)).getD 0xFF)]) ∧
  (∀ (s : State) (b : BinId),
      LaidOut (s.binData b) 24
        [(0, 1, b.val), (1, 1, (s.bin b).position.val),
          (2, 1, flagsNumber (s.bin b).materials.plastic (s.bin b).materials.metal (s.bin b).materials.glass
            (s.bin b).materials.carton),
          (3, 2, (s.bin b).capacity), (5, 2, (s.bin b).nearFull), (7, 1, (s.bin b).interval),
          (8, 1, binStates.idxOf (s.bin b).state), (9, 1, binFaults.idxOf (s.bin b).faultCause), (10, 2, (s.bin b).fill),
          (12, 2, (s.bin b).reserved), (14, 1, if (s.bin b).nearFull ≤ (s.bin b).fill then 1 else 0), (15, 2,
            (s.bin b).strayIns),
          (17, 1, seatings.idxOf (s.bin b).seating), (18, 2, (s.bin b).removalFill.getD 0xFFFF), (20, 1,
            (s.bin b).fillHeld.toNat),
          (21, 1, (s.bin b).ready.toNat), (22, 1, (s.bin b).done.toNat), (23, 1, (s.bin b).window.toNat)]) ∧
  (∀ s : State,
      LaidOut s.ringData (17 + 6 * s.tokenCount)
        [(0, 1, conveyorNumber s.conveyor), (1, 1, if s.conveyor = .fault then 1 else 0), (2, 1, pocketNumber s.pocket),
          (3, 1, if s.pocket = .fault then 1 else 0), (4, 1, s.catchCount), (5, 1, if s.corner.catchCapacity ≤ s.catchCount
            then 1 else 0),
          (6, 1, match s.pocket with
            | .granted l _ => l.val
            | _ => 0xFF),
          (7, 1, match s.pocket with
            | .loaded r => r.lane.val
            | .foreign => 4
            | _ => 0xFF),
          (8, 2, match s.pocket with
            | .loaded r => r.seq
            | _ => 0),
          (10, 1, s.requests.length), (11, 1, (s.requests[0]?.map (·.val)).getD 0xFF), (12, 1,
            (s.requests[1]?.map (·.val)).getD 0xFF),
          (13, 1, (s.requests[2]?.map (·.val)).getD 0xFF), (14, 1, (s.requests[3]?.map (·.val)).getD 0xFF), (16, 1,
            s.tokenCount)] ∧
      fieldAt s.ringData 15 1 < 64 ∧ (∀ b : BinId, (fieldAt s.ringData 15 1).testBit b.val = (s.bin b).window) ∧
      ∀ (p : Position) (k : Token) (j : Nat), s.tokenAt p = some k →
        j = allPositions.countP (fun q => decide (q < p) && (s.tokenAt q).isSome) →
        LaidOut s.ringData (17 + 6 * s.tokenCount)
          [(17 + 6 * j, 1, p.val), (18 + 6 * j, 1, originNumber k.origin), (19 + 6 * j, 2, k.seq.getD 0),
            (21 + 6 * j, 1, match k.cls, k.material with
              | some c, some m => c.val + 16 * materialNames.idxOf m
              | _, _ => 0xFF),
            (22 + 6 * j, 1, (k.destination.map (·.val)).getD 0xFF)]) ∧
  (∀ s : State,
      LaidOut s.counterData 31
        [(0, 4, s.counters.handedOff.toNat), (4, 4, s.counters.foreign.toNat), (8, 4, s.counters.delivered.toNat),
          (12, 4, s.counters.caught.toNat), (16, 4, s.counters.missing.toNat), (20, 4, s.counters.phantom.toNat),
          (24, 2, s.link.frameErrors), (26, 2, s.link.overruns), (28, 1, s.link.queue.length), (29, 1, s.link.heldOut.length),
          (30, 1, s.link.lost.toNat)]) ∧
  (∀ (s : State) (l : Lane),
      LaidOut (s.sessionData l) (15 + 9 * (s.lane l).session.lines.length)
        [(0, 1, l.val), (1, 1, sessionStates.idxOf (s.lane l).session.state), (2, 2, (s.lane l).session.number),
          (4, 1, closeCauses.idxOf (s.lane l).session.cause), (5, 1, (s.lane l).session.voucherWaiting.toNat),
          (6, 1, (s.lane l).session.lines.length), (7, 2, (s.lane l).session.itemCount), (9, 4, (s.lane l).session.valueTotal),
          (13, 2, (s.lane l).session.rejected)] ∧
      ∀ (i : Nat) (y : SessionLine), (s.lane l).session.lines[i]? = some y →
        LaidOut (s.sessionData l) (15 + 9 * (s.lane l).session.lines.length)
          [(15 + 9 * i, 1, y.cls.val), (16 + 9 * i, 2, y.unitValue), (18 + 9 * i, 2, y.count), (20 + 9 * i, 4, y.lineValue)]) ∧
  (∀ s : State, s.resetAsserted = false →
      (∀ l : Lane,
        s.lampOut l =
          if (s.lane l).state = .fault then .faultPattern
          else if (s.lane l).state = .closed then .off
          else if (s.lane l).state = .returning ∨ (s.lane l).state ∈ [LaneState.ready, .standby, .dormant] ∧
            (s.lane l).holds ≠ ⟨false, false, false, false⟩ then .flashing
          else if (s.lane l).state ∈ [LaneState.standby, .dormant] then .dim
          else .steady) ∧
      (∀ l : Lane, s.beltPowerOut l = true ↔ (s.lane l).state ∉ [LaneState.closed, .standby, .dormant]) ∧
      (∀ b : BinId, s.binPowerOut b = true ↔
        (s.bin b).state ∈ [BinState.powering, .opened, .compactPending, .compacting, .full] ∨
          (s.bin b).state = .fault ∧ (s.bin b).seating = .seated) ∧
      (∀ b : BinId, s.compactorOut b = true ↔ (s.bin b).state = .compacting) ∧
      (s.motorOut = true ↔ conveyorNumber s.conveyor ∈ [1, 2, 3])) ∧
  (∀ (s : State) (g : Frame), s.Ready → s.link.receiver.phase ≠ .hunt → s.link.state = .normal → s.link.replySlot = some g →
      (∃ t, exec .interByteTimeout s = .next t ∧ t.apart = (s.afterDiscard s.link.receiver.kept).apart) ∧
      (∀ b : Byte, ∃ t, exec (.hostByteReceived b true) s = .next t ∧ t.apart = (s.afterDiscard s.link.receiver.kept).apart) ∧
      (s.link.receiver.phase = .len → ∀ b : Byte, 240 < b.toNat →
        ∃ t, exec (.hostByteReceived b false) s = .next t ∧ t.apart = (s.afterDiscard s.link.receiver.kept).apart) ∧
      ∀ b : Byte, s.link.receiver.phase = .check → s.link.receiver.kept.length = 5 + fieldAt s.link.receiver.kept 1 1 →
        checkOfBytes (s.link.receiver.kept ++ [b]) ≠ checkOfFrame (frameOfBytes (s.link.receiver.kept ++ [b])) →
        ∃ t, exec (.hostByteReceived b false) s = .next t ∧ t.apart = (s.afterDiscard (s.link.receiver.kept ++ [b])).apart)

/-- R69: the checks, the whole write, and the refusal. The flag enabled is checked by its type (R202). -/
def Obligations.SetWindowWritesTheEntryWhole : Prop :=
  (∀ (s : State) (tag : Byte) (f : SetWindowFields) (n : Fin 64) (c : ClassId),
      s.TakesCommands →
      f.entry = n.val →
      f.cls = c.val →
      f.entry ≤ 63 ∧ f.enabled ≤ 1 ∧ f.kind ≤ 1 ∧ (f.length = 8 ∨ f.length = 13) ∧ f.low < 10 ^ f.length ∧
        f.high < 10 ^ f.length ∧ f.low ≤ f.high ∧ f.cls ≤ 15 →
      exec (.setWindow ⟨tag, 17⟩ f) s = .next (({ s with
          windows := s.windows.set n ⟨f.enabled == 1, if f.kind = 0 then .includes else .excludes, f.length, f.low, f.high, c⟩ }).replied
          (replyFrame 0x01#8 tag .ok []))) ∧
  (∀ (s : State) (tag : Byte) (f : SetWindowFields),
      s.TakesCommands →
      ¬ (f.entry ≤ 63 ∧ f.enabled ≤ 1 ∧ f.kind ≤ 1 ∧ (f.length = 8 ∨ f.length = 13) ∧ f.low < 10 ^ f.length ∧
        f.high < 10 ^ f.length ∧ f.low ≤ f.high ∧ f.cls ≤ 15) →
      exec (.setWindow ⟨tag, 17⟩ f) s = .next (s.replied (replyFrame 0x01#8 tag .badValue [])))

/-- R76: the checks, the whole write, and the refusal. The flag enabled and the encodings are those of R202 and 11.2. -/
def Obligations.SetClassWritesTheEntryWhole : Prop :=
  (∀ (s : State) (tag : Byte) (f : SetClassFields) (c : ClassId) (m : Material) (p : Option BinId),
      s.TakesCommands →
      f.cls = c.val →
      f.material = m.code →
      f.preferred = (p.map (·.val)).getD 255 →
      f.cls ≤ 15 ∧ f.enabled ≤ 1 ∧ f.material ≤ 3 ∧ f.deposit ≤ 5000 ∧ f.weightMin ≤ f.weightMax ∧ f.weightMax ≤ 20000 ∧
        1 ≤ f.diameterMin ∧ f.diameterMin ≤ f.diameterMax ∧ f.diameterMax ≤ 32 ∧ f.lengthMin ≤ f.lengthMax ∧
        f.lengthMax ≤ 400 ∧ (f.preferred ≤ 5 ∨ f.preferred = 255) →
      exec (.setClass ⟨tag, 16⟩ f) s = .next (({ s with
          classes := s.classes.set c ⟨f.enabled == 1, m, f.deposit, f.weightMin, f.weightMax, f.diameterMin, f.diameterMax,
            f.lengthMin, f.lengthMax, p⟩ }).replied (replyFrame 0x02#8 tag .ok []))) ∧
  (∀ (s : State) (tag : Byte) (f : SetClassFields),
      s.TakesCommands →
      ¬ (f.cls ≤ 15 ∧ f.enabled ≤ 1 ∧ f.material ≤ 3 ∧ f.deposit ≤ 5000 ∧ f.weightMin ≤ f.weightMax ∧ f.weightMax ≤ 20000 ∧
        1 ≤ f.diameterMin ∧ f.diameterMin ≤ f.diameterMax ∧ f.diameterMax ≤ 32 ∧ f.lengthMin ≤ f.lengthMax ∧
        f.lengthMax ≤ 400 ∧ (f.preferred ≤ 5 ∨ f.preferred = 255)) →
      exec (.setClass ⟨tag, 16⟩ f) s = .next (s.replied (replyFrame 0x02#8 tag .badValue [])))

/-- R146, with the BIN report of R163. -/
def Obligations.SetBinWritesTheBin : Prop :=
  (∀ (s : State) (tag : Byte) (f : SetBinFields) (b : BinId) (p : Position),
      s.TakesCommands →
      f.bin = b.val →
      f.position = p.val →
      1 ≤ f.position ∧ f.position ≤ 30 ∧ 1 ≤ f.materials ∧ f.materials ≤ 15 ∧ 1 ≤ f.capacity ∧ f.capacity ≤ 9999 ∧
        1 ≤ f.nearFull ∧ f.nearFull ≤ f.capacity ∧ f.interval ≤ 255 ∧ f.fill ≤ f.capacity →
      (∀ b' : BinId, b' ≠ b → (s.bin b').configured = true → (s.bin b').position.val ≠ f.position) →
      (s.bin b).state = .service →
      ∃ t, exec (.setBin ⟨tag, 10⟩ f) s = .next t ∧
        t.Replying (replyFrame 0x03#8 tag .ok []) ∧
        (t.Told (.bin (t.binReport b .config)) ∨ t.Told (.bin (t.binReport b .state))) ∧
        t.apart = (s.setBin b { s.bin b with
            position := p,
            materials := ⟨f.materials.testBit 0, f.materials.testBit 1, f.materials.testBit 2, f.materials.testBit 3⟩,
            capacity := f.capacity, nearFull := f.nearFull, interval := f.interval, fill := f.fill, strayIns := 0 }).apart) ∧
  (∀ (s : State) (tag : Byte) (f : SetBinFields) (b : BinId) (p : Position),
      s.TakesCommands →
      f.bin = b.val →
      f.position = p.val →
      1 ≤ f.position ∧ f.position ≤ 30 ∧ 1 ≤ f.materials ∧ f.materials ≤ 15 ∧ 1 ≤ f.capacity ∧ f.capacity ≤ 9999 ∧
        1 ≤ f.nearFull ∧ f.nearFull ≤ f.capacity ∧ f.interval ≤ 255 ∧ f.fill ≤ f.capacity →
      (∀ b' : BinId, b' ≠ b → (s.bin b').configured = true → (s.bin b').position.val ≠ f.position) →
      (s.bin b).state = .absent →
      ∃ t, exec (.setBin ⟨tag, 10⟩ f) s = .next t ∧
        t.Replying (replyFrame 0x03#8 tag .ok []) ∧
        (t.Told (.bin (t.binReport b .config)) ∨ t.Told (.bin (t.binReport b .state))) ∧
        t.apart = (s.setBin b { s.bin b with
            position := p,
            materials := ⟨f.materials.testBit 0, f.materials.testBit 1, f.materials.testBit 2, f.materials.testBit 3⟩,
            capacity := f.capacity, nearFull := f.nearFull, interval := f.interval, fill := f.fill, strayIns := 0,
            fillHeld := true }).apart) ∧
  (∀ (s : State) (tag : Byte) (f : SetBinFields) (b : BinId) (p : Position),
      s.TakesCommands →
      f.bin = b.val →
      f.position = p.val →
      1 ≤ f.position ∧ f.position ≤ 30 ∧ 1 ≤ f.materials ∧ f.materials ≤ 15 ∧ 1 ≤ f.capacity ∧ f.capacity ≤ 9999 ∧
        1 ≤ f.nearFull ∧ f.nearFull ≤ f.capacity ∧ f.interval ≤ 255 ∧ f.fill ≤ f.capacity →
      (∀ b' : BinId, b' ≠ b → (s.bin b').configured = true → (s.bin b').position.val ≠ f.position) →
      (s.bin b).state = .unconfigured →
      (s.bin b).seating ≠ .seated →
      ∃ t, exec (.setBin ⟨tag, 10⟩ f) s = .next t ∧
        t.Replying (replyFrame 0x03#8 tag .ok []) ∧
        (t.Told (.bin (t.binReport b .config)) ∨ t.Told (.bin (t.binReport b .state))) ∧
        t.apart = (s.setBin b { s.bin b with
            position := p,
            materials := ⟨f.materials.testBit 0, f.materials.testBit 1, f.materials.testBit 2, f.materials.testBit 3⟩,
            capacity := f.capacity, nearFull := f.nearFull, interval := f.interval, fill := f.fill, strayIns := 0,
            fillHeld := true, state := .absent, faultCause := none, diverter := false }).apart) ∧
  (∀ (s : State) (tag : Byte) (f : SetBinFields) (b : BinId) (p : Position),
      s.TakesCommands →
      f.bin = b.val →
      f.position = p.val →
      1 ≤ f.position ∧ f.position ≤ 30 ∧ 1 ≤ f.materials ∧ f.materials ≤ 15 ∧ 1 ≤ f.capacity ∧ f.capacity ≤ 9999 ∧
        1 ≤ f.nearFull ∧ f.nearFull ≤ f.capacity ∧ f.interval ≤ 255 ∧ f.fill ≤ f.capacity →
      (∀ b' : BinId, b' ≠ b → (s.bin b').configured = true → (s.bin b').position.val ≠ f.position) →
      (s.bin b).state = .unconfigured →
      (s.bin b).seating = .seated →
      ∃ t, exec (.setBin ⟨tag, 10⟩ f) s = .next t ∧
        t.Replying (replyFrame 0x03#8 tag .ok []) ∧
        (t.Told (.bin (t.binReport b .config)) ∨ t.Told (.bin (t.binReport b .state))) ∧
        t.apart = (s.setBin b { s.bin b with
            position := p,
            materials := ⟨f.materials.testBit 0, f.materials.testBit 1, f.materials.testBit 2, f.materials.testBit 3⟩,
            capacity := f.capacity, nearFull := f.nearFull, interval := f.interval, fill := f.fill, strayIns := 0,
            state := .powering, faultCause := none, diverter := false, ready := false }).apart) ∧
  (∀ (s : State) (tag : Byte) (f : SetBinFields) (b : BinId) (p : Position),
      s.TakesCommands →
      f.bin = b.val →
      f.position = p.val →
      1 ≤ f.position ∧ f.position ≤ 30 ∧ 1 ≤ f.materials ∧ f.materials ≤ 15 ∧ 1 ≤ f.capacity ∧ f.capacity ≤ 9999 ∧
        1 ≤ f.nearFull ∧ f.nearFull ≤ f.capacity ∧ f.interval ≤ 255 ∧ f.fill ≤ f.capacity →
      (∀ b' : BinId, b' ≠ b → (s.bin b').configured = true → (s.bin b').position.val ≠ f.position) →
      (s.bin b).state ≠ .unconfigured →
      (s.bin b).state ≠ .absent →
      (s.bin b).state ≠ .service →
      exec (.setBin ⟨tag, 10⟩ f) s = .next (s.replied (replyFrame 0x03#8 tag .binInUse []))) ∧
  (∀ (s : State) (tag : Byte) (f : SetBinFields),
      s.TakesCommands →
      ¬ (f.bin ≤ 5 ∧ 1 ≤ f.position ∧ f.position ≤ 30 ∧ 1 ≤ f.materials ∧ f.materials ≤ 15 ∧ 1 ≤ f.capacity ∧
        f.capacity ≤ 9999 ∧ 1 ≤ f.nearFull ∧ f.nearFull ≤ f.capacity ∧ f.interval ≤ 255 ∧ f.fill ≤ f.capacity) →
      exec (.setBin ⟨tag, 10⟩ f) s = .next (s.replied (replyFrame 0x03#8 tag .badValue []))) ∧
  (∀ (s : State) (tag : Byte) (f : SetBinFields) (b b' : BinId),
      s.TakesCommands →
      f.bin = b.val →
      b' ≠ b →
      (s.bin b').configured = true →
      (s.bin b').position.val = f.position →
      exec (.setBin ⟨tag, 10⟩ f) s = .next (s.replied (replyFrame 0x03#8 tag .badValue [])))

/-- R26, with its table of ranges. -/
def Obligations.SetLaneWritesClosedLanes : Prop :=
  (∀ (s : State) (tag : Byte) (f : SetLaneFields) (l : Lane),
      s.TakesCommands →
      f.lane = l.val →
      1 ≤ f.beltPitch ∧ f.beltPitch ≤ 8 ∧ 10 ≤ f.stopDistance ∧ f.stopDistance ≤ 400 ∧ 40 ≤ f.maxLength ∧ f.maxLength ≤ 400 ∧
        4 ≤ f.settleCount ∧ f.settleCount ≤ 64 ∧ 1 ≤ f.stabilityLimit ∧ f.stabilityLimit ≤ 4096 ∧ 1 ≤ f.attempts ∧
        f.attempts ≤ 7 ∧ f.autoZeroInterval ≤ 600 ∧ f.zeroBand ≤ 200 ∧ f.queryEnabled ≤ 1 ∧ 1 ≤ f.itemCap ∧ f.itemCap ≤ 500 ∧
        100 ≤ f.valueCap ∧ f.valueCap ≤ 100000 ∧ 1 ≤ f.standbyTime ∧ f.standbyTime ≤ 600 ∧ f.dormantTime ≤ 3600 ∧
        10 ≤ f.sessionIdleTime ∧ f.sessionIdleTime ≤ 600 ∧ 200 ≤ f.handoffTime ∧ f.handoffTime ≤ 5000 ∧ 50 ≤ f.returnTravel ∧
        f.returnTravel ≤ 1000 ∧ -8388608 ≤ f.zero ∧ f.zero ≤ 8388607 ∧ f.span ≤ 65535 →
      (s.lane l).state = .closed →
      exec (.setLane ⟨tag, 36⟩ f) s = .next ((s.setLane l { s.lane l with
          config := ⟨f.beltPitch, f.stopDistance, f.maxLength, f.settleCount, f.stabilityLimit, f.attempts, f.autoZeroInterval,
            f.zeroBand, f.queryEnabled == 1, f.itemCap, f.valueCap, f.standbyTime, f.dormantTime, f.sessionIdleTime,
            f.handoffTime, f.returnTravel⟩,
          zero := f.zero, span := f.span }).replied (replyFrame 0x04#8 tag .ok []))) ∧
  (∀ (s : State) (tag : Byte) (f : SetLaneFields),
      s.TakesCommands →
      f.lane = 255 →
      1 ≤ f.beltPitch ∧ f.beltPitch ≤ 8 ∧ 10 ≤ f.stopDistance ∧ f.stopDistance ≤ 400 ∧ 40 ≤ f.maxLength ∧ f.maxLength ≤ 400 ∧
        4 ≤ f.settleCount ∧ f.settleCount ≤ 64 ∧ 1 ≤ f.stabilityLimit ∧ f.stabilityLimit ≤ 4096 ∧ 1 ≤ f.attempts ∧
        f.attempts ≤ 7 ∧ f.autoZeroInterval ≤ 600 ∧ f.zeroBand ≤ 200 ∧ f.queryEnabled ≤ 1 ∧ 1 ≤ f.itemCap ∧ f.itemCap ≤ 500 ∧
        100 ≤ f.valueCap ∧ f.valueCap ≤ 100000 ∧ 1 ≤ f.standbyTime ∧ f.standbyTime ≤ 600 ∧ f.dormantTime ≤ 3600 ∧
        10 ≤ f.sessionIdleTime ∧ f.sessionIdleTime ≤ 600 ∧ 200 ≤ f.handoffTime ∧ f.handoffTime ≤ 5000 ∧ 50 ≤ f.returnTravel ∧
        f.returnTravel ≤ 1000 ∧ -8388608 ≤ f.zero ∧ f.zero ≤ 8388607 ∧ f.span ≤ 65535 →
      (∀ l : Lane, (s.lane l).state = .closed) →
      exec (.setLane ⟨tag, 36⟩ f) s = .next (({ s with
          lanes := s.lanes.map (fun u : LaneUnit => { u with
              config := ⟨f.beltPitch, f.stopDistance, f.maxLength, f.settleCount, f.stabilityLimit, f.attempts,
                f.autoZeroInterval, f.zeroBand, f.queryEnabled == 1, f.itemCap, f.valueCap, f.standbyTime, f.dormantTime,
                f.sessionIdleTime, f.handoffTime, f.returnTravel⟩,
              zero := f.zero, span := f.span }) }).replied (replyFrame 0x04#8 tag .ok []))) ∧
  (∀ (s : State) (tag : Byte) (f : SetLaneFields) (l : Lane),
      s.TakesCommands →
      (f.lane = l.val ∨ f.lane = 255) →
      1 ≤ f.beltPitch ∧ f.beltPitch ≤ 8 ∧ 10 ≤ f.stopDistance ∧ f.stopDistance ≤ 400 ∧ 40 ≤ f.maxLength ∧ f.maxLength ≤ 400 ∧
        4 ≤ f.settleCount ∧ f.settleCount ≤ 64 ∧ 1 ≤ f.stabilityLimit ∧ f.stabilityLimit ≤ 4096 ∧ 1 ≤ f.attempts ∧
        f.attempts ≤ 7 ∧ f.autoZeroInterval ≤ 600 ∧ f.zeroBand ≤ 200 ∧ f.queryEnabled ≤ 1 ∧ 1 ≤ f.itemCap ∧ f.itemCap ≤ 500 ∧
        100 ≤ f.valueCap ∧ f.valueCap ≤ 100000 ∧ 1 ≤ f.standbyTime ∧ f.standbyTime ≤ 600 ∧ f.dormantTime ≤ 3600 ∧
        10 ≤ f.sessionIdleTime ∧ f.sessionIdleTime ≤ 600 ∧ 200 ≤ f.handoffTime ∧ f.handoffTime ≤ 5000 ∧ 50 ≤ f.returnTravel ∧
        f.returnTravel ≤ 1000 ∧ -8388608 ≤ f.zero ∧ f.zero ≤ 8388607 ∧ f.span ≤ 65535 →
      (s.lane l).state ≠ .closed →
      exec (.setLane ⟨tag, 36⟩ f) s = .next (s.replied (replyFrame 0x04#8 tag .wrongState []))) ∧
  (∀ (s : State) (tag : Byte) (f : SetLaneFields),
      s.TakesCommands →
      ¬ ((f.lane ≤ 3 ∨ f.lane = 255) ∧ 1 ≤ f.beltPitch ∧ f.beltPitch ≤ 8 ∧ 10 ≤ f.stopDistance ∧ f.stopDistance ≤ 400 ∧
        40 ≤ f.maxLength ∧ f.maxLength ≤ 400 ∧ 4 ≤ f.settleCount ∧ f.settleCount ≤ 64 ∧ 1 ≤ f.stabilityLimit ∧
        f.stabilityLimit ≤ 4096 ∧ 1 ≤ f.attempts ∧ f.attempts ≤ 7 ∧ f.autoZeroInterval ≤ 600 ∧ f.zeroBand ≤ 200 ∧
        f.queryEnabled ≤ 1 ∧ 1 ≤ f.itemCap ∧ f.itemCap ≤ 500 ∧ 100 ≤ f.valueCap ∧ f.valueCap ≤ 100000 ∧ 1 ≤ f.standbyTime ∧
        f.standbyTime ≤ 600 ∧ f.dormantTime ≤ 3600 ∧ 10 ≤ f.sessionIdleTime ∧ f.sessionIdleTime ≤ 600 ∧ 200 ≤ f.handoffTime ∧
        f.handoffTime ≤ 5000 ∧ 50 ≤ f.returnTravel ∧ f.returnTravel ≤ 1000 ∧ -8388608 ≤ f.zero ∧ f.zero ≤ 8388607 ∧
        f.span ≤ 65535) →
      exec (.setLane ⟨tag, 36⟩ f) s = .next (s.replied (replyFrame 0x04#8 tag .badValue [])))

/-- R196, and the fullness of R139. -/
def Obligations.SetCornerWritesTheCorner : Prop :=
  (∀ (s : State) (tag : Byte) (f : SetCornerFields),
      s.TakesCommands →
      100 ≤ f.queryTimeout ∧ f.queryTimeout ≤ 10000 ∧ f.supervisionTime ≤ 60 ∧ 100 ≤ f.startTime ∧ f.startTime ≤ 3000 ∧
        200 ≤ f.stallTime ∧ f.stallTime ≤ 5000 ∧ 1 ≤ f.runOutTime ∧ f.runOutTime ≤ 120 ∧ 100 ≤ f.pocketReleaseTime ∧
        f.pocketReleaseTime ≤ 2000 ∧ 1 ≤ f.catchCapacity ∧ f.catchCapacity ≤ 250 →
      (f.catchCapacity ≤ s.catchCount ↔ s.corner.catchCapacity ≤ s.catchCount) →
      exec (.setCorner ⟨tag, 11⟩ f) s = .next (({ s with
          corner := ⟨f.queryTimeout, f.supervisionTime, f.startTime, f.stallTime, f.runOutTime, f.pocketReleaseTime,
            f.catchCapacity⟩ }).replied (replyFrame 0x05#8 tag .ok []))) ∧
  (∀ (s : State) (tag : Byte) (f : SetCornerFields),
      s.TakesCommands →
      100 ≤ f.queryTimeout ∧ f.queryTimeout ≤ 10000 ∧ f.supervisionTime ≤ 60 ∧ 100 ≤ f.startTime ∧ f.startTime ≤ 3000 ∧
        200 ≤ f.stallTime ∧ f.stallTime ≤ 5000 ∧ 1 ≤ f.runOutTime ∧ f.runOutTime ≤ 120 ∧ 100 ≤ f.pocketReleaseTime ∧
        f.pocketReleaseTime ≤ 2000 ∧ 1 ≤ f.catchCapacity ∧ f.catchCapacity ≤ 250 →
      ∃ t, exec (.setCorner ⟨tag, 11⟩ f) s = .next t ∧
        t.Replying (replyFrame 0x05#8 tag .ok []) ∧
        Keeps { s with
            corner := ⟨f.queryTimeout, f.supervisionTime, f.startTime, f.stallTime, f.runOutTime, f.pocketReleaseTime,
              f.catchCapacity⟩ } t ∧
        (∀ l : Lane, (t.lane l).isOpen = true → (t.lane l).holds.conveyor =
          (t.conveyor.barsGrants || t.pocket == .fault || decide (f.catchCapacity ≤ s.catchCount)))) ∧
  (∀ (s : State) (tag : Byte) (f : SetCornerFields),
      s.TakesCommands →
      100 ≤ f.queryTimeout ∧ f.queryTimeout ≤ 10000 ∧ f.supervisionTime ≤ 60 ∧ 100 ≤ f.startTime ∧ f.startTime ≤ 3000 ∧
        200 ≤ f.stallTime ∧ f.stallTime ≤ 5000 ∧ 1 ≤ f.runOutTime ∧ f.runOutTime ≤ 120 ∧ 100 ≤ f.pocketReleaseTime ∧
        f.pocketReleaseTime ≤ 2000 ∧ 1 ≤ f.catchCapacity ∧ f.catchCapacity ≤ 250 →
      f.catchCapacity ≤ s.catchCount →
      s.catchCount < s.corner.catchCapacity →
      ∃ t, exec (.setCorner ⟨tag, 11⟩ f) s = .next t ∧
        t.Told (.conveyor ⟨t.conveyor, t.pocket, s.catchCount, true⟩)) ∧
  (∀ (s : State) (tag : Byte) (f : SetCornerFields),
      s.TakesCommands →
      ¬ (100 ≤ f.queryTimeout ∧ f.queryTimeout ≤ 10000 ∧ f.supervisionTime ≤ 60 ∧ 100 ≤ f.startTime ∧ f.startTime ≤ 3000 ∧
        200 ≤ f.stallTime ∧ f.stallTime ≤ 5000 ∧ 1 ≤ f.runOutTime ∧ f.runOutTime ≤ 120 ∧ 100 ≤ f.pocketReleaseTime ∧
        f.pocketReleaseTime ≤ 2000 ∧ 1 ≤ f.catchCapacity ∧ f.catchCapacity ≤ 250) →
      exec (.setCorner ⟨tag, 11⟩ f) s = .next (s.replied (replyFrame 0x05#8 tag .badValue [])))

/-- R12, with R8, R10, R40 and R48 for what an opening sets. At the opening the profile's three counts are 0: the model's choice (note 9). A link that
is not LOST puts no LINK on the lane, one whose expiry comes with the next frame neither (note 26). -/
def Obligations.OpenLaneOpensACalibratedLane : Prop :=
  (∀ (s : State) (tag : Byte) (l : Lane),
      s.TakesCommands →
      (s.lane l).state ≠ .closed →
      exec (.openLane ⟨tag, 2⟩ l.val) s = .next (s.replied (replyFrame 0x06#8 tag .ok []))) ∧
  (∀ (s : State) (tag : Byte) (l : Lane),
      s.TakesCommands →
      (s.lane l).state = .closed →
      (s.lane l).span = 0 →
      exec (.openLane ⟨tag, 2⟩ l.val) s = .next (s.replied (replyFrame 0x06#8 tag .notCalibrated []))) ∧
  (∀ (s : State) (tag : Byte) (l : Lane),
      s.TakesCommands →
      (s.lane l).state = .closed →
      (s.lane l).span ≠ 0 →
      (∀ c : ClassId, (s.classAt c).enabled = false) →
      exec (.openLane ⟨tag, 2⟩ l.val) s = .next (s.replied (replyFrame 0x06#8 tag .noClasses []))) ∧
  (∀ (s : State) (tag : Byte) (l : Lane) (c : ClassId),
      s.TakesCommands →
      (s.lane l).state = .closed →
      (s.lane l).span ≠ 0 →
      (s.classAt c).enabled = true →
      (s.lane l).session.state = .none →
      ∃ t, exec (.openLane ⟨tag, 2⟩ l.val) s = .next t ∧
        t.Replying (replyFrame 0x06#8 tag .ok []) ∧
        t.Told (.lane (t.laneReport l)) ∧
        t.apart = (s.setLane l { s.lane l with
            state := .ready,
            holds := ⟨s.link.state == .lost, (s.conveyor.barsGrants || s.trayFull || s.pocket == .fault), false, false⟩,
            closePending := false, curtain := Curtain.reset, mouth := ⟨false, false⟩, button := ⟨false, false⟩,
            converterOn := true, coldStart := (s.lane l).coldStart || !(s.lane l).converterOn,
            shutter := s.link.state != .lost && !(s.conveyor.barsGrants || s.trayFull || s.pocket == .fault) && !(s.lane l).calRunning }).apart
            ) ∧
  (∀ (s : State) (tag : Byte) (n : Nat),
      s.TakesCommands →
      3 < n →
      exec (.openLane ⟨tag, 2⟩ n) s = .next (s.replied (replyFrame 0x06#8 tag .badValue [])))

/-- R13 and R14; R8 and R24 for the button; R25 for the timer; R169 to R173 for the session. A CLOSED lane keeps the mouth's settled state (note 13), a row of a timer that does not run changes nothing (note 18), which report takes the last place is open (note 1), and that VOUCHER_OFFER stands for what an event's end does is the model's (note 2). A press row counts as a press also where the button is settled pressed (note 22). At an entry to CLOSED the profile's three counts are 0: the model's choice (note 9). -/
def Obligations.CloseRequestsCloseTheSessionAndTheLane : Prop :=
  (∀ (s : State) (tag : Byte) (l : Lane),
      s.TakesCommands →
      ((s.lane l).state = .closed ∨ (s.lane l).closePending = true) →
      exec (.closeLane ⟨tag, 2⟩ l.val) s = .next (s.replied (replyFrame 0x06#8 tag .ok []))) ∧
  (∀ (s : State) (tag : Byte) (l : Lane),
      s.TakesCommands →
      (s.lane l).state ≠ .closed →
      (s.lane l).closePending = false →
      (s.lane l).record = none →
      (s.lane l).session.state = .none →
      (s.lane l).calRunning = false →
      ∃ t, exec (.closeLane ⟨tag, 2⟩ l.val) s = .next t ∧
        t.Replying (replyFrame 0x06#8 tag .ok []) ∧
        t.Told (.lane (t.laneReport l)) ∧
        t.apart = (s.setLane l (LaneUnit.syncShutter { s.lane l with
            state := .closed, faultCause := none, holds := HoldSet.none, closePending := false, calRunning := false,
            belt := .off, mouthOpen := false, curtain := Curtain.reset, weigher := Weigher.idle })).apart) ∧
  (∀ (s : State) (tag : Byte) (l : Lane),
      s.TakesCommands →
      (s.lane l).state ≠ .closed →
      (s.lane l).closePending = false →
      ((s.lane l).record ≠ none ∨ (s.lane l).calRunning = true ∨ (s.lane l).session.state = .closing) →
      (s.lane l).session.state ≠ .opened →
      ∃ t, exec (.closeLane ⟨tag, 2⟩ l.val) s = .next t ∧
        t.Replying (replyFrame 0x06#8 tag .ok []) ∧
        t.Told (.lane (t.laneReport l)) ∧
        t.apart = (s.setLane l (LaneUnit.syncShutter { s.lane l with
            closePending := true, holds := { (s.lane l).holds with closePending := true } })).apart) ∧
  (∀ (s : State) (tag : Byte) (l : Lane) (r : ContainerRecord),
      s.TakesCommands →
      (s.lane l).state ≠ .closed →
      (s.lane l).closePending = false →
      (s.lane l).record = some r →
      r.verdict = some .accept →
      (s.lane l).session.state = .opened →
      (s.lane l).session.voucherWaiting = false →
      ∃ t, exec (.closeLane ⟨tag, 2⟩ l.val) s = .next t ∧
        t.Replying (replyFrame 0x06#8 tag .ok []) ∧
        t.Told (.lane (t.laneReport l)) ∧
        t.apart = (s.setLane l (LaneUnit.syncShutter { s.lane l with
            closePending := true, holds := { (s.lane l).holds with closePending := true, sessionClosing := true },
            session := { (s.lane l).session with state := .closing, cause := some .laneClosed } })).apart) ∧
  (∀ (s : State) (tag : Byte) (l : Lane),
      s.TakesCommands →
      (s.lane l).state ≠ .closed →
      (s.lane l).closePending = false →
      (s.lane l).holdsAccept = false →
      (s.lane l).session.state = .opened →
      (s.lane l).session.voucherWaiting = false →
      ∃ t, exec (.closeLane ⟨tag, 2⟩ l.val) s = .next t ∧
        t.Replying (replyFrame 0x06#8 tag .ok []) ∧
        t.Told (.lane (t.laneReport l)) ∧
        s.SessionEnds t l { s.lane l with
            closePending := true, holds := { (s.lane l).holds with closePending := true } }
            { (s.lane l).session with state := .closing, cause := some .laneClosed }) ∧
  (∀ (s : State) (tag : Byte) (n : Nat),
      s.TakesCommands →
      3 < n →
      exec (.closeLane ⟨tag, 2⟩ n) s = .next (s.replied (replyFrame 0x06#8 tag .badValue []))) ∧
  (∀ (s : State) (l : Lane),
      s.Ready →
      (s.lane l).state = .closed →
      exec (.voucherButtonPress l) s = .next s) ∧
  (∀ (s : State) (l : Lane),
      s.Ready →
      (s.lane l).state ≠ .closed →
      (s.lane l).state ≠ .standby →
      (s.lane l).state ≠ .dormant →
      (s.lane l).session.state ≠ .opened →
      exec (.voucherButtonPress l) s = .next (s.setLane l { s.lane l with button := ⟨true, false⟩ })) ∧
  (∀ (s : State) (l : Lane),
      s.Ready →
      ((s.lane l).state = .standby ∨ (s.lane l).state = .dormant) →
      (s.lane l).session.state ≠ .opened →
      ∃ t, exec (.voucherButtonPress l) s = .next t ∧
        t.Told (.lane (t.laneReport l)) ∧
        t.apart = (s.setLane l (LaneUnit.syncShutter { (s.lane l).awake with button := ⟨true, false⟩ })).apart) ∧
  (∀ (s : State) (l : Lane) (r : ContainerRecord),
      s.Ready →
      (s.lane l).state ≠ .closed →
      (s.lane l).record = some r →
      r.verdict = some .accept →
      (s.lane l).state ≠ .standby →
      (s.lane l).state ≠ .dormant →
      (s.lane l).session.state = .opened →
      (s.lane l).session.voucherWaiting = false →
      (s.lane l).holds.sessionClosing = false →
      ∃ t, exec (.voucherButtonPress l) s = .next t ∧
        t.Told (.lane (t.laneReport l)) ∧
        t.apart = (s.setLane l (LaneUnit.syncShutter { s.lane l with
            button := ⟨true, false⟩, session := { (s.lane l).session with state := .closing, cause := some .button },
            holds := { (s.lane l).holds with sessionClosing := true } })).apart) ∧
  (∀ (s : State) (l : Lane),
      s.Ready →
      (s.lane l).state ≠ .closed →
      (s.lane l).holdsAccept = false →
      (s.lane l).holds.sessionClosing = false →
      (s.lane l).session.state = .opened →
      (s.lane l).session.voucherWaiting = false →
      ∃ t, exec (.voucherButtonPress l) s = .next t ∧
        t.Told (.lane (t.laneReport l)) ∧
        s.SessionEnds t l { (s.lane l).awake with button := ⟨true, false⟩ } { (s.lane l).session with
            state := .closing, cause := some .button }) ∧
  (∀ (s : State) (l : Lane) (x : Scan),
      s.Ready →
      (s.lane l).state ≠ .closed →
      x.dark = 0#8 →
      ((s.lane l).curtain.phase = .none ∨ (s.lane l).curtain.phase = .ended) →
      (s.lane l).mouth.settled = x.mouth →
      (s.lane l).mouth.pending = false →
      (s.lane l).button = ⟨false, true⟩ →
      x.button = true →
      (s.lane l).holdsAccept = false →
      (s.lane l).holds.sessionClosing = false →
      (s.lane l).session.state = .opened →
      (s.lane l).session.voucherWaiting = false →
      ∃ t, exec (.curtainScan l x) s = .next t ∧
        t.Told (.lane (t.laneReport l)) ∧
        s.SessionEnds t l (LaneUnit.awake { s.lane l with
            button := ⟨true, false⟩, curtain := { (s.lane l).curtain.debounce (scanBeams x) with stray := 0 } })
            { (s.lane l).session with state := .closing, cause := some .button }) ∧
  (∀ (s : State) (l : Lane) (x : Scan),
      s.Ready →
      (s.lane l).state ≠ .closed →
      x.dark = 0#8 →
      ((s.lane l).curtain.phase = .none ∨ (s.lane l).curtain.phase = .ended) →
      (s.lane l).mouth.settled = x.mouth →
      (s.lane l).mouth.pending = false →
      (s.lane l).button = ⟨false, true⟩ →
      x.button = true →
      ((s.lane l).session.state ≠ .opened ∨ (s.lane l).holdsAccept = true) →
      ∃ t, exec (.curtainScan l x) s = .next t ∧
        ∃ u, exec (.voucherButtonPress l) (s.setLane l { s.lane l with
            curtain := { (s.lane l).curtain.debounce (scanBeams x) with stray := 0 } }) = .next u ∧ t.apart = u.apart) ∧
  (∀ (s : State) (l : Lane) (x : Scan),
      s.Ready →
      (s.lane l).state ≠ .closed →
      x.dark = 0#8 →
      ((s.lane l).curtain.phase = .none ∨ (s.lane l).curtain.phase = .ended) →
      (s.lane l).mouth.settled = x.mouth →
      (s.lane l).mouth.pending = false →
      (s.lane l).button = ⟨true, true⟩ →
      x.button = false →
      ∃ t, exec (.curtainScan l x) s = .next t ∧
        t.apart = (s.setLane l { s.lane l with
            curtain := { (s.lane l).curtain.debounce (scanBeams x) with stray := 0 }, button := ⟨false, false⟩ }).apart) ∧
  (∀ (s : State) (l : Lane),
      s.Ready →
      ((s.lane l).state = .closed ∨ (s.lane l).record ≠ none ∨ (s.lane l).session.state ≠ .opened) →
      exec (.sessionIdleTimerExpiry l) s = .next s) ∧
  (∀ (s : State) (l : Lane),
      s.Ready →
      (s.lane l).state ≠ .closed →
      (s.lane l).record = none →
      (s.lane l).holds.sessionClosing = false →
      (s.lane l).session.state = .opened →
      (s.lane l).session.voucherWaiting = false →
      ∃ t, exec (.sessionIdleTimerExpiry l) s = .next t ∧
        t.Told (.lane (t.laneReport l)) ∧
        s.SessionEnds t l (s.lane l) { (s.lane l).session with state := .closing, cause := some .idle }) ∧
  (∀ (s : State) (l : Lane),
      s.resetAsserted = false →
      s.link.intake = [] →
      (s.lane l).session.state = .closing →
      (s.lane l).session.voucherWaiting = false →
      (s.lane l).holdsAccept = false →
      s.outbox = [] →
      (∀ r ∈ s.link.heldOut, r.isVoucherOf l = false) →
      ∃ t, exec (.voucherOffer l) s = .next t ∧
        (t.VoucherGone l (s.lane l).session ∨ (∃ r ∈ t.link.heldOut, r.isVoucherOf l = true) ∧ (t.lane l).session =
          { (s.lane l).session with
            voucherWaiting := true }) ∧
        (∀ l' : Lane, (t.lane l').keptPart = (s.lane l').keptPart) ∧
        t.corePart = s.corePart) ∧
  (∀ (s : State) (l : Lane),
      (s.setLane l { s.lane l with session := { (s.lane l).session with voucherWaiting := true } }).Ready →
      (s.lane l).session.state = .closing →
      (s.lane l).session.voucherWaiting = false →
      (s.lane l).holdsAccept = false →
      (s.lane l).holds.sessionClosing = true →
      (s.lane l).mouth.settled = false →
      ∃ t, exec (.voucherOffer l) s = .next t ∧
        s.SessionEnds t l (s.lane l) (s.lane l).session) ∧
  (∀ (s : State) (l : Lane),
      (s.setLane l { s.lane l with session := { (s.lane l).session with voucherWaiting := true } }).Ready →
      (s.lane l).session.state = .closing →
      (s.lane l).session.voucherWaiting = false →
      (s.lane l).holdsAccept = false →
      (s.lane l).holds = ⟨false, false, true, false⟩ →
      (s.lane l).mouth.settled = true →
      (s.lane l).state = .ready →
      (s.lane l).calRunning = false →
      (s.lane l).closePending = false →
      s.link.queue.length < 32 →
      ∃ t, exec (.voucherOffer l) s = .next t ∧
        t.VoucherGone l (s.lane l).session ∧
        t.Told (.lane (t.laneReport l)) ∧
        (t.lane l).state = .admitting ∧
        (t.lane l).record = some (ContainerRecord.fresh l (s.lane l).nextSeq) ∧
        t.OnlyLane l s) ∧
  (∀ (s : State) (l : Lane),
      s.Ready →
      exec (.voucherOffer l) s = .next s)

/-- R58, with the start of a run of R49 and R50. -/
def Obligations.ZeroAndSpanStartARun : Prop :=
  (∀ (s : State) (tag : Byte) (l : Lane),
      s.TakesCommands →
      (s.lane l).state = .ready →
      (s.lane l).calRunning = false →
      exec (.zero ⟨tag, 1⟩ l.val) s = .next ((s.setLane l (LaneUnit.syncShutter { s.lane l with
          calRunning := true,
          weigher := ⟨.zero, .discard, .g16, if (s.lane l).coldStart then 64 else (s.lane l).config.settleCount,
            (s.lane l).coldStart, [], 0, none⟩ })).replied (replyFrame 0x07#8 tag .ok []))) ∧
  (∀ (s : State) (tag : Byte) (l : Lane),
      s.TakesCommands →
      (s.lane l).state = .standby →
      (s.lane l).calRunning = false →
      ∃ t, exec (.zero ⟨tag, 1⟩ l.val) s = .next t ∧
        t.Replying (replyFrame 0x07#8 tag .ok []) ∧
        t.Told (.lane (t.laneReport l)) ∧
        t.apart = (s.setLane l (LaneUnit.syncShutter { s.lane l with
            state := .ready, converterOn := true, coldStart := (s.lane l).coldStart || !(s.lane l).converterOn, belt := .off,
            faultCause := none, mouthOpen := false, curtain := { (s.lane l).curtain with phase := .none }, calRunning := true,
            weigher := ⟨.zero, .discard, .g16, if ((s.lane l).coldStart || !(s.lane l).converterOn) then 64
              else (s.lane l).config.settleCount, ((s.lane l).coldStart || !(s.lane l).converterOn), [], 0, none⟩ })).apart) ∧
  (∀ (s : State) (tag : Byte) (l : Lane),
      s.TakesCommands →
      (((s.lane l).state ≠ .ready ∧ (s.lane l).state ≠ .standby) ∨ (s.lane l).calRunning = true) →
      exec (.zero ⟨tag, 1⟩ l.val) s = .next (s.replied (replyFrame 0x07#8 tag .laneBusy []))) ∧
  (∀ (s : State) (tag : Byte) (l : Lane) (m : Nat),
      s.TakesCommands →
      100 ≤ m →
      m ≤ 20000 →
      (s.lane l).state = .ready →
      (s.lane l).calRunning = false →
      exec (.span ⟨tag, 3⟩ l.val m) s = .next ((s.setLane l (LaneUnit.syncShutter { s.lane l with
          calRunning := true,
          weigher := ⟨.span, .discard, .g16, if (s.lane l).coldStart then 64 else (s.lane l).config.settleCount,
            (s.lane l).coldStart, [], 0, some m⟩ })).replied (replyFrame 0x08#8 tag .ok []))) ∧
  (∀ (s : State) (tag : Byte) (l : Lane) (m : Nat),
      s.TakesCommands →
      100 ≤ m →
      m ≤ 20000 →
      (s.lane l).state = .standby →
      (s.lane l).calRunning = false →
      ∃ t, exec (.span ⟨tag, 3⟩ l.val m) s = .next t ∧
        t.Replying (replyFrame 0x08#8 tag .ok []) ∧
        t.Told (.lane (t.laneReport l)) ∧
        t.apart = (s.setLane l (LaneUnit.syncShutter { s.lane l with
            state := .ready, converterOn := true, coldStart := (s.lane l).coldStart || !(s.lane l).converterOn, belt := .off,
            faultCause := none, mouthOpen := false, curtain := { (s.lane l).curtain with phase := .none }, calRunning := true,
            weigher := ⟨.span, .discard, .g16, if ((s.lane l).coldStart || !(s.lane l).converterOn) then 64
              else (s.lane l).config.settleCount, ((s.lane l).coldStart || !(s.lane l).converterOn), [], 0, some m⟩ })).apart) ∧
  (∀ (s : State) (tag : Byte) (l : Lane) (m : Nat),
      s.TakesCommands →
      100 ≤ m →
      m ≤ 20000 →
      (((s.lane l).state ≠ .ready ∧ (s.lane l).state ≠ .standby) ∨ (s.lane l).calRunning = true) →
      exec (.span ⟨tag, 3⟩ l.val m) s = .next (s.replied (replyFrame 0x08#8 tag .laneBusy []))) ∧
  (∀ (s : State) (tag : Byte) (n : Nat),
      s.TakesCommands →
      3 < n →
      exec (.zero ⟨tag, 1⟩ n) s = .next (s.replied (replyFrame 0x07#8 tag .badValue []))) ∧
  (∀ (s : State) (tag : Byte) (n m : Nat),
      s.TakesCommands →
      (3 < n ∨ m < 100 ∨ 20000 < m) →
      exec (.span ⟨tag, 3⟩ n m) s = .next (s.replied (replyFrame 0x08#8 tag .badValue [])))

/-- R97 and R98, with the verdicts of R92 and R93. -/
def Obligations.CodeAnswerDecidesTheQuery : Prop :=
  (∀ (s : State) (tag : Byte) (l : Lane) (seq : Nat) (code : Code) (r : ContainerRecord),
      s.TakesCommands →
      (s.lane l).query.subject = some (seq, code) →
      seq ≠ 0 →
      (s.lane l).state = .query →
      (s.lane l).record = some r →
      r.verdict = none →
      r.destination = none →
      ∃ t, exec (.codeAnswer ⟨tag, 4⟩ l.val seq 255) s = .next t ∧
        t.Replying (replyFrame 0x09#8 tag .ok []) ∧
        t.ToldOrLost (r.report (.reject .unknown) none) ∧
        t.apart = (s.setLane l (LaneUnit.syncShutter { s.lane l with
            state := .returning, faultCause := none, mouthOpen := false, returnTravel := 0,
            belt := if (s.lane l).mouth.settled then .off else .reverse,
            record := some { r with verdict := some (.reject .unknown) },
            session := { (s.lane l).session with
                rejected := if (s.lane l).session.state = .opened then satSucc 65535 (s.lane l).session.rejected
                  else (s.lane l).session.rejected },
            query := .idle })).apart) ∧
  (∀ (s : State) (tag : Byte) (l : Lane) (seq : Nat) (code : Code) (r : ContainerRecord) (c : ClassId) (reason : Reason),
      s.TakesCommands →
      (s.lane l).query.subject = some (seq, code) →
      seq ≠ 0 →
      (s.lane l).state = .query →
      (s.lane l).record = some r →
      r.verdict = none →
      r.destination = none →
      s.classReason l r c = some reason →
      ∃ t, exec (.codeAnswer ⟨tag, 4⟩ l.val seq c.val) s = .next t ∧
        t.Replying (replyFrame 0x09#8 tag .ok []) ∧
        t.ToldOrLost (r.report (.reject reason) (some c)) ∧
        t.apart = (s.setLane l (LaneUnit.syncShutter { s.lane l with
            state := .returning, faultCause := none, mouthOpen := false, returnTravel := 0,
            belt := if (s.lane l).mouth.settled then .off else .reverse,
            record := some { r with verdict := some (.reject reason) },
            session := { (s.lane l).session with
                rejected := if (s.lane l).session.state = .opened then satSucc 65535 (s.lane l).session.rejected
                  else (s.lane l).session.rejected },
            query := .idle })).apart) ∧
  (∀ (s : State) (tag : Byte) (l : Lane) (seq : Nat) (code : Code) (r : ContainerRecord) (c : ClassId),
      s.TakesCommands →
      (s.lane l).query.subject = some (seq, code) →
      seq ≠ 0 →
      (s.lane l).state = .query →
      (s.lane l).record = some r →
      r.verdict = none →
      r.destination = none →
      s.classReason l r c = none →
      s.chooseBin (s.classAt c).material (s.classAt c).preferred = none →
      ∃ t, exec (.codeAnswer ⟨tag, 4⟩ l.val seq c.val) s = .next t ∧
        t.Replying (replyFrame 0x09#8 tag .ok []) ∧
        t.ToldOrLost (r.report (.reject .noBin) (some c)) ∧
        t.apart = (s.setLane l (LaneUnit.syncShutter { s.lane l with
            state := .returning, faultCause := none, mouthOpen := false, returnTravel := 0,
            belt := if (s.lane l).mouth.settled then .off else .reverse,
            record := some { r with verdict := some (.reject .noBin) },
            session := { (s.lane l).session with
                rejected := if (s.lane l).session.state = .opened then satSucc 65535 (s.lane l).session.rejected
                  else (s.lane l).session.rejected },
            query := .idle })).apart) ∧
  (∀ (s : State) (tag : Byte) (l : Lane) (seq : Nat) (code : Code) (r : ContainerRecord) (c : ClassId) (b : BinId),
      s.TakesCommands →
      (s.lane l).query.subject = some (seq, code) →
      seq ≠ 0 →
      (s.lane l).state = .query →
      (s.lane l).record = some r →
      r.verdict = none →
      r.destination = none →
      s.classReason l r c = none →
      s.chooseBin (s.classAt c).material (s.classAt c).preferred = some b →
      ∃ t, exec (.codeAnswer ⟨tag, 4⟩ l.val seq c.val) s = .next t ∧
        t.Replying (replyFrame 0x09#8 tag .ok []) ∧
        (t.lane l).record = some { r with
            verdict := some .accept, cls := some c, material := some (s.classAt c).material,
            unitValue := some (s.classAt c).deposit, destination := some b } ∧
        (t.lane l).query = .idle ∧
        (((t.lane l).state = .hold ∧ l ∈ t.requests) ∨ ((t.lane l).state = .handoff ∧ t.pocket.grantedTo l = true)) ∧
        (t.bin b).reserved = (s.bin b).reserved + 1 ∧
        t.corePart = s.corePart) ∧
  (∀ (s : State) (tag : Byte) (l : Lane) (seq a : Nat),
      s.TakesCommands →
      seq ≠ 0 →
      (a ≤ 15 ∨ a = 255) →
      (s.lane l).query.subject.map (·.1) ≠ some seq →
      exec (.codeAnswer ⟨tag, 4⟩ l.val seq a) s = .next (s.replied (replyFrame 0x09#8 tag .late []))) ∧
  (∀ (s : State) (tag : Byte) (n seq a : Nat),
      s.TakesCommands →
      (3 < n ∨ seq = 0 ∨ (15 < a ∧ a ≠ 255)) →
      exec (.codeAnswer ⟨tag, 4⟩ n seq a) s = .next (s.replied (replyFrame 0x09#8 tag .badValue [])))

/-- R160, R161 and R162. -/
def Obligations.BinServiceAndClearBinMoveTheBin : Prop :=
  (∀ (s : State) (tag : Byte) (b : BinId) (n : Nat),
      s.TakesCommands →
      ((s.bin b).state = .opened ∨ (s.bin b).state = .compactPending ∨ (s.bin b).state = .full ∨ (s.bin b).state = .fault) →
      s.holders b = 0 →
      ∃ t, exec (.binServiceBegin ⟨tag, 4⟩ b.val n) s = .next t ∧
        t.Replying (replyFrame 0x0A#8 tag .ok []) ∧
        t.Told (.bin (t.binReport b .state)) ∧
        t.apart = (s.setBin b { s.bin b with state := .service, faultCause := none, diverter := false }).apart) ∧
  (∀ (s : State) (tag : Byte) (b : BinId) (n : Nat),
      s.TakesCommands →
      ((s.bin b).state = .opened ∨ (s.bin b).state = .compactPending ∨ (s.bin b).state = .full ∨ (s.bin b).state = .fault) →
      s.LanesCoherent →
      s.MergeCoherent →
      ∃ t, exec (.binServiceBegin ⟨tag, 4⟩ b.val n) s = .next t ∧
        t.Replying (replyFrame 0x0A#8 tag .ok []) ∧
        t.Told (.bin (t.binReport b .state)) ∧
        (t.bin b).state = .service ∧
        (t.bin b).fill = (s.bin b).fill ∧
        (t.bin b).faultCause = none ∧
        (t.bin b).diverter = false ∧
        t.holders b = 0) ∧
  (∀ (s : State) (tag : Byte) (b : BinId) (n : Nat),
      s.TakesCommands →
      ¬ ((s.bin b).state = .opened ∨ (s.bin b).state = .compactPending ∨ (s.bin b).state = .full ∨ (s.bin b).state = .fault) →
      exec (.binServiceBegin ⟨tag, 4⟩ b.val n) s = .next (s.replied (replyFrame 0x0A#8 tag .wrongState []))) ∧
  (∀ (s : State) (tag : Byte) (m n : Nat),
      s.TakesCommands →
      5 < m →
      exec (.binServiceBegin ⟨tag, 4⟩ m n) s = .next (s.replied (replyFrame 0x0A#8 tag .badValue []))) ∧
  (∀ (s : State) (tag : Byte) (b : BinId) (n : Nat),
      s.TakesCommands →
      (s.bin b).state = .service →
      n ≤ (s.bin b).capacity →
      (s.bin b).seating = .seated →
      ∃ t, exec (.binServiceEnd ⟨tag, 4⟩ b.val n) s = .next t ∧
        t.Replying (replyFrame 0x0A#8 tag .ok []) ∧
        t.Told (.bin (t.binReport b .state)) ∧
        t.apart = (s.setBin b { s.bin b with
            fill := n, strayIns := 0, state := .powering, faultCause := none, diverter := false, ready := false }).apart) ∧
  (∀ (s : State) (tag : Byte) (b : BinId) (n : Nat),
      s.TakesCommands →
      (s.bin b).state = .service →
      n ≤ (s.bin b).capacity →
      (s.bin b).seating ≠ .seated →
      ∃ t, exec (.binServiceEnd ⟨tag, 4⟩ b.val n) s = .next t ∧
        t.Replying (replyFrame 0x0A#8 tag .ok []) ∧
        t.Told (.bin (t.binReport b .state)) ∧
        t.apart = (s.setBin b { s.bin b with
            fill := n, strayIns := 0, fillHeld := true, state := .absent, faultCause := none, diverter := false }).apart) ∧
  (∀ (s : State) (tag : Byte) (b : BinId) (n : Nat),
      s.TakesCommands →
      (s.bin b).state ≠ .service →
      n ≤ (s.bin b).capacity →
      exec (.binServiceEnd ⟨tag, 4⟩ b.val n) s = .next (s.replied (replyFrame 0x0A#8 tag .wrongState []))) ∧
  (∀ (s : State) (tag : Byte) (b : BinId) (n : Nat),
      s.TakesCommands →
      (s.bin b).capacity < n →
      exec (.binServiceEnd ⟨tag, 4⟩ b.val n) s = .next (s.replied (replyFrame 0x0A#8 tag .badValue []))) ∧
  (∀ (s : State) (tag : Byte) (m n : Nat),
      s.TakesCommands →
      5 < m →
      exec (.binServiceEnd ⟨tag, 4⟩ m n) s = .next (s.replied (replyFrame 0x0A#8 tag .badValue []))) ∧
  (∀ (s : State) (tag : Byte) (b : BinId),
      s.TakesCommands →
      (s.bin b).state = .fault →
      (s.bin b).seating = .seated →
      (s.bin b).ready = true →
      ∃ t, exec (.clearBin ⟨tag, 2⟩ b.val) s = .next t ∧
        t.Replying (replyFrame 0x0C#8 tag .ok []) ∧
        t.Told (.bin (t.binReport b .state)) ∧
        t.apart = (s.setBin b { s.bin b with
            state := if (s.bin b).fill = (s.bin b).capacity then .full else .opened, faultCause := none,
            diverter := (s.bin b).diverter && decide ((s.bin b).fill ≠ (s.bin b).capacity) }).apart) ∧
  (∀ (s : State) (tag : Byte) (b : BinId),
      s.TakesCommands →
      (s.bin b).state = .fault →
      (s.bin b).seating = .seated →
      (s.bin b).ready = false →
      ∃ t, exec (.clearBin ⟨tag, 2⟩ b.val) s = .next t ∧
        t.Replying (replyFrame 0x0C#8 tag .ok []) ∧
        t.Told (.bin (t.binReport b .state)) ∧
        t.apart = (s.setBin b { s.bin b with
            state := .powering, faultCause := none, diverter := false, ready := false }).apart) ∧
  (∀ (s : State) (tag : Byte) (b : BinId),
      s.TakesCommands →
      (s.bin b).state = .fault →
      (s.bin b).seating ≠ .seated →
      ∃ t, exec (.clearBin ⟨tag, 2⟩ b.val) s = .next t ∧
        t.Replying (replyFrame 0x0C#8 tag .ok []) ∧
        t.Told (.bin (t.binReport b .state)) ∧
        t.apart = (s.setBin b { s.bin b with
            fillHeld := false, state := .absent, faultCause := none, diverter := false }).apart) ∧
  (∀ (s : State) (tag : Byte) (b : BinId),
      s.TakesCommands →
      (s.bin b).state ≠ .fault →
      exec (.clearBin ⟨tag, 2⟩ b.val) s = .next (s.replied (replyFrame 0x0C#8 tag .wrongState []))) ∧
  (∀ (s : State) (tag : Byte) (m : Nat),
      s.TakesCommands →
      5 < m →
      exec (.clearBin ⟨tag, 2⟩ m) s = .next (s.replied (replyFrame 0x0C#8 tag .badValue [])))

/-- R126. FAULT is the only conveyor state with a cause, so leaving it gives the cause up. -/
def Obligations.ClearConveyorRestartsAfterAStall : Prop :=
  (∀ (s : State) (tag : Byte),
      s.TakesCommands →
      s.conveyor = .fault →
      ∃ t, exec (.clearConveyor ⟨tag, 1⟩) s = .next t ∧
        t.Replying (replyFrame 0x0C#8 tag .ok []) ∧
        t.Told (.conveyor t.conveyorReport) ∧
        t.conveyor = (if s.workPresent then .starting s.corner.startTime else .stopped) ∧
        Keeps s t) ∧
  (∀ (s : State) (tag : Byte),
      s.TakesCommands →
      s.conveyor ≠ .fault →
      exec (.clearConveyor ⟨tag, 1⟩) s = .next (s.replied (replyFrame 0x0C#8 tag .wrongState [])))

/-- R140 and R117, with the grant of R108. R125, with the hold cause of R127. -/
def Obligations.CornerCommandsAct : Prop :=
  (∀ (s : State) (tag : Byte),
      s.TakesCommands →
      s.catchCount < s.corner.catchCapacity →
      ∃ t, exec (.catchEmptied ⟨tag, 0⟩) s = .next t ∧
        t.Replying (replyFrame 0x0B#8 tag .ok []) ∧
        t.Told (.conveyor t.conveyorReport) ∧
        t.apart = ({ s with catchCount := 0 }).apart) ∧
  (∀ (s : State) (tag : Byte),
      s.TakesCommands →
      ∃ t, exec (.catchEmptied ⟨tag, 0⟩) s = .next t ∧
        t.Replying (replyFrame 0x0B#8 tag .ok []) ∧
        t.Told (.conveyor t.conveyorReport) ∧
        Keeps { s with catchCount := 0 } t) ∧
  (∀ (s : State) (tag : Byte),
      s.TakesCommands →
      (s.pocket = .fault ∨ s.pocket = .foreign) →
      s.pocketBeam = false →
      ∃ t, exec (.clearPocket ⟨tag, 1⟩) s = .next t ∧
        t.Replying (replyFrame 0x0C#8 tag .ok []) ∧
        t.Told (.conveyor t.conveyorReport) ∧
        (t.pocket = .empty ∨ ∃ l ∈ s.requests.head?, t.pocket = .granted l (s.lane l).config.handoffTime) ∧
        (s.requests = [] → t.pocket = .empty) ∧
        Keeps s t) ∧
  (∀ (s : State) (tag : Byte),
      s.TakesCommands →
      ¬ ((s.pocket = .fault ∨ s.pocket = .foreign) ∧ s.pocketBeam = false) →
      exec (.clearPocket ⟨tag, 1⟩) s = .next (s.replied (replyFrame 0x0C#8 tag .wrongState []))) ∧
  (∀ (s : State) (tag : Byte),
      s.TakesCommands →
      s.conveyor ≠ .halted →
      ∃ t, exec (.haltOn ⟨tag, 1⟩) s = .next t ∧
        t.Replying (replyFrame 0x0D#8 tag .ok []) ∧
        t.Told (.conveyor t.conveyorReport) ∧
        t.conveyor = .halted ∧
        (∀ l : Lane, (t.lane l).isOpen = true → (t.lane l).holds.conveyor = true) ∧
        Keeps s t) ∧
  (∀ (s : State) (tag : Byte),
      s.TakesCommands →
      s.conveyor = .halted →
      exec (.haltOn ⟨tag, 1⟩) s = .next (s.replied (replyFrame 0x0D#8 tag .ok []))) ∧
  (∀ (s : State) (tag : Byte),
      s.TakesCommands →
      s.conveyor = .halted →
      ∃ t, exec (.haltOff ⟨tag, 1⟩) s = .next t ∧
        t.Replying (replyFrame 0x0D#8 tag .ok []) ∧
        t.Told (.conveyor t.conveyorReport) ∧
        t.conveyor = (if s.workPresent then .starting s.corner.startTime else .stopped) ∧
        Keeps s t) ∧
  (∀ (s : State) (tag : Byte),
      s.TakesCommands →
      s.conveyor ≠ .halted →
      exec (.haltOff ⟨tag, 1⟩) s = .next (s.replied (replyFrame 0x0D#8 tag .ok [])))

/-- R22, with R20, R100 and R105. A record whose ACCEPT is written over keeps class, material and unit value (note 14). -/
def Obligations.ClearLaneResolvesTheRecord : Prop :=
  (∀ (s : State) (tag : Byte) (l : Lane) (r : ContainerRecord),
      s.TakesCommands →
      (s.lane l).state = .fault →
      (s.lane l).record = some r →
      r.verdict = some .accept →
      (s.lane l).mouth.settled = false →
      l ∉ s.requests →
      ∃ t, exec (.clearLaneRetry ⟨tag, 3⟩ l.val) s = .next t ∧
        t.Replying (replyFrame 0x0C#8 tag .ok []) ∧
        ((t.lane l).state = .hold ∧ l ∈ t.requests ∨ (t.lane l).state = .handoff ∧ t.pocket.grantedTo l = true) ∧
        (t.lane l).record = some r ∧
        (t.lane l).faultCause = none ∧
        t.corePart = s.corePart ∧
        (∀ b : BinId, (s.bin b).state ≠ .compactPending → t.bin b = s.bin b)) ∧
  (∀ (s : State) (tag : Byte) (l : Lane),
      s.TakesCommands →
      ¬ ((s.lane l).state = .fault ∧ (s.lane l).holdsAccept = true ∧ (s.lane l).mouth.settled = false) →
      exec (.clearLaneRetry ⟨tag, 3⟩ l.val) s = .next (s.replied (replyFrame 0x0C#8 tag .wrongState []))) ∧
  (∀ (s : State) (tag : Byte) (l : Lane) (r : ContainerRecord),
      s.TakesCommands →
      ((s.lane l).state = .fault ∨ (s.lane l).state = .query ∨ (s.lane l).state = .hold) →
      (s.lane l).record = some r →
      ∃ t, exec (.clearLaneReturn ⟨tag, 3⟩ l.val) s = .next t ∧
        t.Replying (replyFrame 0x0C#8 tag .ok []) ∧
        (t.lane l).state = .returning ∧
        (t.lane l).record = some { r with
            verdict := if Verdict.isReject r.verdict then r.verdict else some (.reject .cleared), destination := none } ∧
        (t.lane l).faultCause = none ∧
        (t.lane l).belt = (if (s.lane l).mouth.settled then .off else .reverse) ∧
        (t.lane l).returnTravel = 0 ∧
        ((s.lane l).state = .query → (t.lane l).query = .idle) ∧
        ((s.lane l).state = .hold → l ∉ t.requests) ∧
        t.corePart = s.corePart ∧
        (∀ l' : Lane, (t.lane l').keptPart = (s.lane l').keptPart)) ∧
  (∀ (s : State) (tag : Byte) (l : Lane),
      s.TakesCommands →
      ((s.lane l).record = none ∨ ¬ ((s.lane l).state = .fault ∨ (s.lane l).state = .query ∨ (s.lane l).state = .hold)) →
      exec (.clearLaneReturn ⟨tag, 3⟩ l.val) s = .next (s.replied (replyFrame 0x0C#8 tag .wrongState []))) ∧
  (∀ (s : State) (tag : Byte) (l : Lane),
      s.TakesCommands →
      ((s.lane l).state = .fault ∨ (s.lane l).state = .query ∨ (s.lane l).state = .hold) →
      (s.lane l).mouth.settled = false →
      (s.lane l).curtain.settled = 0 →
      (s.requests.filter (· ≠ l) = s.requests ∨ (s.lane l).state = .hold) →
      ∃ t, exec (.clearLaneDiscard ⟨tag, 3⟩ l.val) s = .next t ∧
        t.Replying (replyFrame 0x0C#8 tag .ok []) ∧
        ((t.lane l).state = .ready ∨ ((t.lane l).state = .closed ∧ (s.lane l).closePending = true)) ∧
        (t.lane l).record = none ∧
        (t.lane l).faultCause = none ∧
        (t.lane l).belt = .off ∧
        ((s.lane l).state = .query → (t.lane l).query = .idle) ∧
        ((s.lane l).state = .hold → l ∉ t.requests) ∧
        t.corePart = s.corePart ∧
        (∀ l' : Lane, (t.lane l').keptPart = (s.lane l').keptPart)) ∧
  (∀ (s : State) (tag : Byte) (l : Lane),
      s.TakesCommands →
      ¬ (((s.lane l).state = .fault ∨ (s.lane l).state = .query ∨ (s.lane l).state = .hold) ∧ (s.lane l).mouth.settled =
        false ∧ (s.lane l).curtain.settled = 0) →
      exec (.clearLaneDiscard ⟨tag, 3⟩ l.val) s = .next (s.replied (replyFrame 0x0C#8 tag .wrongState []))) ∧
  (∀ (s : State) (tag : Byte) (n : Nat),
      s.TakesCommands →
      3 < n →
      exec (.clearLaneRetry ⟨tag, 3⟩ n) s = .next (s.replied (replyFrame 0x0C#8 tag .badValue []))) ∧
  (∀ (s : State) (tag : Byte) (n : Nat),
      s.TakesCommands →
      3 < n →
      exec (.clearLaneReturn ⟨tag, 3⟩ n) s = .next (s.replied (replyFrame 0x0C#8 tag .badValue []))) ∧
  (∀ (s : State) (tag : Byte) (n : Nat),
      s.TakesCommands →
      3 < n →
      exec (.clearLaneDiscard ⟨tag, 3⟩ n) s = .next (s.replied (replyFrame 0x0C#8 tag .badValue [])))

/-- R197. A subject that names none is answered before any row is taken (the statement of R185); the supervision timer is that of the frame, not of the command (R194). -/
def Obligations.QueryAnswersAndChangesNothing : Prop :=
  (∀ (s : State) (tag : Byte) (l : Lane),
      s.TakesCommands →
      exec (.queryLane ⟨tag, 2⟩ l.val) s = .next (s.replied (replyFrame 0x0E#8 tag .ok (s.laneData l)))) ∧
  (∀ (s : State) (tag : Byte) (b : BinId),
      s.TakesCommands →
      exec (.queryBin ⟨tag, 2⟩ b.val) s = .next (s.replied (replyFrame 0x0E#8 tag .ok (s.binData b)))) ∧
  (∀ (s : State) (tag : Byte),
      s.TakesCommands →
      exec (.queryRing ⟨tag, 1⟩) s = .next (s.replied (replyFrame 0x0E#8 tag .ok s.ringData))) ∧
  (∀ (s : State) (tag : Byte),
      s.TakesCommands →
      exec (.queryCounters ⟨tag, 1⟩) s = .next (s.replied (replyFrame 0x0E#8 tag .ok s.counterData))) ∧
  (∀ (s : State) (tag : Byte) (l : Lane),
      s.TakesCommands →
      exec (.querySession ⟨tag, 2⟩ l.val) s = .next (s.replied (replyFrame 0x0E#8 tag .ok (s.sessionData l)))) ∧
  (∀ (s : State) (tag : Byte) (n : Nat),
      s.TakesCommands →
      3 < n →
      exec (.queryLane ⟨tag, 2⟩ n) s = .next (s.replied (replyFrame 0x0E#8 tag .badValue []))) ∧
  (∀ (s : State) (tag : Byte) (n : Nat),
      s.TakesCommands →
      5 < n →
      exec (.queryBin ⟨tag, 2⟩ n) s = .next (s.replied (replyFrame 0x0E#8 tag .badValue []))) ∧
  (∀ (s : State) (tag : Byte) (n : Nat),
      s.TakesCommands →
      3 < n →
      exec (.querySession ⟨tag, 2⟩ n) s = .next (s.replied (replyFrame 0x0E#8 tag .badValue [])))

/-- R198 and R199, with each block's RESTART column (R27, R120, R144, R164, R180). The settled mouth and button are clear (note 9) and the contacts are kept (note 10). Whether the queued CODE_QUERYs of the queries it ends stay (R100) or go (R191, R199) is a free choice (note 20). -/
def Obligations.RestartReturnsEveryBlock : Prop :=
  (∀ (s : State) (tag : Byte),
      s.TakesCommands →
      ∃ t, exec (.restart ⟨tag, 1⟩ 1) s = .next t ∧
        t.Replying (replyFrame 0x0F#8 tag .ok []) ∧
        t.apart = ({ s with
            lanes := s.lanes.map (fun u : LaneUnit => { LaneUnit.reset with
                config := u.config, zero := u.zero, span := u.span, nextSeq := u.nextSeq,
                session := Session.none u.session.number }),
            requests := [], pocket := .empty, pocketBeam := false, conveyor := .stopped, ring := Vector.replicate 32 none,
            endFlag := false, endBeam := false, catchCount := 0, counters := FlowCounters.zero,
            bins := s.bins.map (fun u : BinUnit => { BinUnit.reset with
                position := u.position, materials := u.materials, capacity := u.capacity, nearFull := u.nearFull,
                interval := u.interval, fill := u.fill, removalFill := u.removalFill, contacts := u.contacts,
                state := if u.state = BinState.unconfigured then BinState.unconfigured else if u.state = BinState.service
                  then BinState.service else BinState.absent,
                fillHeld := u.fillHeld || decide (u.state ≠ BinState.unconfigured ∧ u.state ≠ BinState.service) }),
            link := { s.link with intake := [], frameErrors := 0, overruns := 0 } }).apart ∧
        t.link.heldOut = [] ∧
        t.link.lost = false ∧
        (∀ l : Lane, (s.lane l).state ≠ .closed → .lane (t.laneReport l) ∈ t.link.queue) ∧
        (∀ b : BinId, (t.bin b).state ≠ (s.bin b).state → .bin (t.binReport b .state) ∈ t.link.queue) ∧
        (s.conveyor ≠ .stopped → .conveyor t.conveyorReport ∈ t.link.queue) ∧
        ∃ kept rest : List Report, t.link.queue = kept ++ rest ∧ (kept = [] ∨ kept = s.queriesQueued) ∧
          ∀ x ∈ rest, (∃ l : Lane, x = .lane (t.laneReport l) ∧ (s.lane l).state ≠ .closed) ∨ (∃ b : BinId, x =
            .bin (t.binReport b .state) ∧ (t.bin b).state ≠ (s.bin b).state) ∨ x = .conveyor t.conveyorReport ∧
            s.conveyor ≠ .stopped) ∧
  (∀ (s : State) (tag : Byte),
      s.TakesCommands →
      ¬ ((∃ l : Lane, (s.lane l).session.state ≠ .none ∨ (s.lane l).record ≠ none) ∨ s.pocket ≠ .empty ∨ ∃ p : Position,
        s.tokenAt p ≠ none) →
      ∃ t, exec (.restart ⟨tag, 1⟩ 0) s = .next t ∧
        t.Replying (replyFrame 0x0F#8 tag .ok []) ∧
        t.apart = ({ s with
            lanes := s.lanes.map (fun u : LaneUnit => { LaneUnit.reset with
                config := u.config, zero := u.zero, span := u.span, nextSeq := u.nextSeq,
                session := Session.none u.session.number }),
            requests := [], pocket := .empty, pocketBeam := false, conveyor := .stopped, ring := Vector.replicate 32 none,
            endFlag := false, endBeam := false, catchCount := 0, counters := FlowCounters.zero,
            bins := s.bins.map (fun u : BinUnit => { BinUnit.reset with
                position := u.position, materials := u.materials, capacity := u.capacity, nearFull := u.nearFull,
                interval := u.interval, fill := u.fill, removalFill := u.removalFill, contacts := u.contacts,
                state := if u.state = BinState.unconfigured then BinState.unconfigured else if u.state = BinState.service
                  then BinState.service else BinState.absent,
                fillHeld := u.fillHeld || decide (u.state ≠ BinState.unconfigured ∧ u.state ≠ BinState.service) }),
            link := { s.link with intake := [], frameErrors := 0, overruns := 0 } }).apart ∧
        t.link.heldOut = [] ∧
        t.link.lost = false ∧
        (∀ l : Lane, (s.lane l).state ≠ .closed → .lane (t.laneReport l) ∈ t.link.queue) ∧
        (∀ b : BinId, (t.bin b).state ≠ (s.bin b).state → .bin (t.binReport b .state) ∈ t.link.queue) ∧
        (s.conveyor ≠ .stopped → .conveyor t.conveyorReport ∈ t.link.queue) ∧
        ∃ kept rest : List Report, t.link.queue = kept ++ rest ∧ (kept = [] ∨ kept = s.queriesQueued) ∧ (s.LanesCoherent → kept = []) ∧
          ∀ x ∈ rest, (∃ l : Lane, x = .lane (t.laneReport l) ∧ (s.lane l).state ≠ .closed) ∨ (∃ b : BinId, x =
            .bin (t.binReport b .state) ∧ (t.bin b).state ≠ (s.bin b).state) ∨ x = .conveyor t.conveyorReport ∧
            s.conveyor ≠ .stopped) ∧
  (∀ (s : State) (tag : Byte),
      s.TakesCommands →
      ((∃ l : Lane, (s.lane l).session.state ≠ .none ∨ (s.lane l).record ≠ none) ∨ s.pocket ≠ .empty ∨ ∃ p : Position,
        s.tokenAt p ≠ none) →
      exec (.restart ⟨tag, 1⟩ 0) s = .next (s.replied (replyFrame 0x0F#8 tag .workPresent []))) ∧
  (∀ (s : State) (tag : Byte) (n : Nat),
      s.TakesCommands →
      1 < n →
      exec (.restart ⟨tag, 1⟩ n) s = .next (s.replied (replyFrame 0x0F#8 tag .badValue []))) ∧
  (∀ (s : State) (x : Report),
      x ∈ s.queriesQueued ↔ x ∈ s.link.queue ∧ ∃ (l : Lane) (n : Nat) (c : Code), x = .codeQuery l n c ∧
        ((s.lane l).query = .waitingRoom n c ∨ ∃ k, (s.lane l).query = .opened n c k))

/-- R185 and R204. R185 and R203, for every row with a body length. -/
def Obligations.UnknownKindAndWrongLengthAreAnswered : Prop :=
  (∀ (s : State) (f : Frame),
      s.TakesCommands →
      isCommandKind f.kind = false →
      exec (.unknownKindCommand f) s = .next (s.replied (replyFrame f.kind f.tag .unknownKind []))) ∧
  (∀ (s : State) (i : Instr) (h : CmdHead) (n : Nat) (f : Frame),
      s.TakesCommands →
      headOf i = some h →
      bodyLength i = some n →
      h.len ≠ n →
      frameOf i = some f →
      exec i s = .next (s.replied (replyFrame f.kind h.tag .badLength [])))

/-- R30, R32 and R35 to R39. The debounce, the runs and what a scan reads have statements of their own. -/
def Obligations.CurtainScanFollowsTheProfile : Prop :=
  (∀ (s : State) (l : Lane) (x : Scan),
      s.Ready →
      (s.lane l).state = .closed →
      exec (.curtainScan l x) s = .next s) ∧
  (∀ (s : State) (l : Lane) (x : Scan),
      s.Ready →
      (s.lane l).state ≠ .closed →
      (s.lane l).scanSettles x = false →
      x.dark = 0#8 →
      ((s.lane l).curtain.phase = .none ∨ (s.lane l).curtain.phase = .ended ∨ (((s.lane l).curtain.phase = .waiting ∨
        (s.lane l).curtain.phase = .stopping) ∧ ((s.lane l).curtain.debounce (scanBeams x)).settled = 0)) →
      exec (.curtainScan l x) s = .next (s.setLane l { s.lane l with
          curtain := { (s.lane l).curtain.debounce (scanBeams x) with stray := 0 },
          mouth := ⟨(s.lane l).mouth.settled, x.mouth != (s.lane l).mouth.settled⟩,
          button := ⟨(s.lane l).button.settled, x.button != (s.lane l).button.settled⟩ })) ∧
  (∀ (s : State) (l : Lane) (x : Scan) (lo hi : Nat),
      s.Ready →
      (s.lane l).state ≠ .closed →
      (s.lane l).scanSettles x = false →
      x.dark = 0#8 →
      (s.lane l).curtain.phase = .waiting →
      runsOf ((s.lane l).curtain.debounce (scanBeams x)).settled = [(lo, hi)] →
      exec (.curtainScan l x) s = .next (s.setLane l { s.lane l with
          curtain := { (s.lane l).curtain.debounce (scanBeams x) with
              stray := 0, phase := .passing, pulses := 0, extent := max (s.lane l).curtain.extent (hi - lo + 1) },
          mouth := ⟨(s.lane l).mouth.settled, x.mouth != (s.lane l).mouth.settled⟩,
          button := ⟨(s.lane l).button.settled, x.button != (s.lane l).button.settled⟩ })) ∧
  (∀ (s : State) (l : Lane) (x : Scan) (lo hi : Nat),
      s.Ready →
      (s.lane l).state ≠ .closed →
      (s.lane l).scanSettles x = false →
      x.dark = 0#8 →
      (s.lane l).curtain.phase = .passing →
      runsOf ((s.lane l).curtain.debounce (scanBeams x)).settled = [(lo, hi)] →
      exec (.curtainScan l x) s = .next (s.setLane l { s.lane l with
          curtain := { (s.lane l).curtain.debounce (scanBeams x) with
              stray := 0, extent := max (s.lane l).curtain.extent (hi - lo + 1) },
          mouth := ⟨(s.lane l).mouth.settled, x.mouth != (s.lane l).mouth.settled⟩,
          button := ⟨(s.lane l).button.settled, x.button != (s.lane l).button.settled⟩ })) ∧
  (∀ (s : State) (l : Lane) (x : Scan) (r : ContainerRecord),
      s.Ready →
      (s.lane l).state ≠ .closed →
      (s.lane l).scanSettles x = false →
      x.dark = 0#8 →
      (s.lane l).curtain.phase = .passing →
      ((s.lane l).curtain.debounce (scanBeams x)).settled = 0 →
      (s.lane l).record = some r →
      exec (.curtainScan l x) s = .next (s.setLane l { s.lane l with
          curtain := { (s.lane l).curtain.debounce (scanBeams x) with stray := 0, phase := .stopping, stops := 0 },
          mouth := ⟨(s.lane l).mouth.settled, x.mouth != (s.lane l).mouth.settled⟩,
          button := ⟨(s.lane l).button.settled, x.button != (s.lane l).button.settled⟩,
          record := some { r with
              diameter := some (s.lane l).curtain.extent,
              length := some ((s.lane l).curtain.pulses * (s.lane l).config.beltPitch) } })) ∧
  (∀ (s : State) (l : Lane) (x : Scan) (r : ContainerRecord),
      s.Ready →
      (s.lane l).state ≠ .closed →
      (s.lane l).scanSettles x = false →
      x.dark = 0#8 →
      (s.lane l).state = .admitting →
      (s.lane l).record = some r →
      r.verdict = none →
      r.destination = none →
      ((s.lane l).curtain.phase = .passing ∧ 2 ≤ (runsOf ((s.lane l).curtain.debounce (scanBeams x)).settled).length ∨
        (s.lane l).curtain.phase = .waiting ∧ 2 ≤ (runsOf ((s.lane l).curtain.debounce (scanBeams x)).settled).length ∨
        (s.lane l).curtain.phase = .stopping ∧ ((s.lane l).curtain.debounce (scanBeams x)).settled ≠ 0) →
      ∃ t, exec (.curtainScan l x) s = .next t ∧
        t.ToldOrLost (r.report (.reject .double) none) ∧
        t.Told (.lane (t.laneReport l)) ∧
        t.apart = (s.setLane l (LaneUnit.syncShutter { s.lane l with
            state := .returning, faultCause := none, mouthOpen := false, returnTravel := 0,
            belt := if (s.lane l).mouth.settled then .off else .reverse,
            record := some { r with verdict := some (.reject .double) },
            session := { (s.lane l).session with
                rejected := if (s.lane l).session.state = .opened then satSucc 65535 (s.lane l).session.rejected
                  else (s.lane l).session.rejected },
            curtain := { (s.lane l).curtain.debounce (scanBeams x) with
                stray := 0, phase := .ended,
                pulses := if (s.lane l).curtain.phase = .waiting then 0 else (s.lane l).curtain.pulses },
            mouth := ⟨(s.lane l).mouth.settled, x.mouth != (s.lane l).mouth.settled⟩,
            button := ⟨(s.lane l).button.settled, x.button != (s.lane l).button.settled⟩ })).apart) ∧
  (∀ (s : State) (l : Lane) (x : Scan),
      s.Ready →
      (s.lane l).state ≠ .closed →
      (s.lane l).scanSettles x = false →
      x.dark ≠ 0#8 →
      (s.lane l).curtain.stray < 2 →
      exec (.curtainScan l x) s = .next (s.setLane l { s.lane l with
          curtain := { (s.lane l).curtain with stray := (s.lane l).curtain.stray + 1 },
          mouth := ⟨(s.lane l).mouth.settled, x.mouth != (s.lane l).mouth.settled⟩,
          button := ⟨(s.lane l).button.settled, x.button != (s.lane l).button.settled⟩ })) ∧
  (∀ (s : State) (l : Lane) (x : Scan) (r : ContainerRecord),
      s.Ready →
      (s.lane l).scanSettles x = false →
      x.dark ≠ 0#8 →
      ((s.lane l).curtain.stray = 2 ∨ (s.lane l).curtain.stray = 3) →
      ((s.lane l).state = .admitting ∨ (s.lane l).state = .weigh ∨ (s.lane l).state = .query ∨ (s.lane l).state = .hold ∨
        (s.lane l).state = .returning) →
      (s.lane l).record = some r →
      l ∉ s.requests →
      ∃ t, exec (.curtainScan l x) s = .next t ∧
        t.Told (.lane (t.laneReport l)) ∧
        t.apart = (s.setLane l (LaneUnit.syncShutter { s.lane l with
            state := .fault, faultCause := some .strayLight, belt := .off, mouthOpen := false, converterOn := true,
            coldStart := (s.lane l).coldStart || !(s.lane l).converterOn,
            curtain := { (s.lane l).curtain with
                stray := 3, phase := if (s.lane l).state = .admitting then .none else (s.lane l).curtain.phase },
            weigher := if (s.lane l).state = .weigh then Weigher.idle else (s.lane l).weigher,
            query := if (s.lane l).state = .query then .idle else (s.lane l).query,
            mouth := ⟨(s.lane l).mouth.settled, x.mouth != (s.lane l).mouth.settled⟩,
            button := ⟨(s.lane l).button.settled, x.button != (s.lane l).button.settled⟩ })).apart)

/-- R2, R8, R9, R14, R15, R20, R24 and R65. A row that reports the state already settled has no effect (note 4). At an entry to CLOSED the profile's three counts are 0: the model's choice (note 9). -/
def Obligations.MouthBeamAdmitsWakesAndEndsReturn : Prop :=
  (∀ (s : State) (l : Lane) (v : Bool),
      s.Ready →
      ((s.lane l).state = .closed ∨ (s.lane l).mouth.settled = v) →
      exec (.mouthBeamChange l v) s = .next s) ∧
  (∀ (s : State) (l : Lane),
      s.Ready →
      (s.lane l).state = .ready →
      (s.lane l).record = none →
      (s.lane l).mouth.settled = false →
      (s.lane l).holds = ⟨false, false, false, false⟩ →
      (s.lane l).calRunning = false →
      (s.lane l).closePending = false →
      ∃ t, exec (.mouthBeamChange l true) s = .next t ∧
        t.Told (.lane (t.laneReport l)) ∧
        t.apart = (s.setLane l (LaneUnit.syncShutter { s.lane l with
            mouth := ⟨true, false⟩, weigher := if (s.lane l).weigher.run = .autoZero then Weigher.idle else (s.lane l).weigher,
            state := .admitting, record := some (ContainerRecord.fresh l (s.lane l).nextSeq),
            nextSeq := if (s.lane l).nextSeq < 65535 then (s.lane l).nextSeq + 1 else 1, belt := .forward, mouthOpen := true,
            curtain := { (s.lane l).curtain with phase := .waiting, pulses := 0, extent := 0, stops := 0 } })).apart) ∧
  (∀ (s : State) (l : Lane),
      s.Ready →
      (s.lane l).state = .ready →
      (s.lane l).mouth.settled = false →
      ((s.lane l).holds ≠ ⟨false, false, false, false⟩ ∨ (s.lane l).calRunning = true) →
      exec (.mouthBeamChange l true) s = .next (s.setLane l (LaneUnit.syncShutter { s.lane l with
          mouth := ⟨true, false⟩, weigher := if (s.lane l).weigher.run = .autoZero then Weigher.idle else (s.lane l).weigher })))
          ∧
  (∀ (s : State) (l : Lane),
      s.Ready →
      ((s.lane l).state = .standby ∨ (s.lane l).state = .dormant) →
      (s.lane l).record = none →
      (s.lane l).mouth.settled = false →
      (s.lane l).holds = ⟨false, false, false, false⟩ →
      (s.lane l).calRunning = false →
      (s.lane l).closePending = false →
      (s.lane l).weigher.run = .none →
      ∃ t, exec (.mouthBeamChange l true) s = .next t ∧
        t.Told (.lane (t.laneReport l)) ∧
        t.apart = (s.setLane l (LaneUnit.syncShutter { s.lane l with
            mouth := ⟨true, false⟩, converterOn := true, coldStart := (s.lane l).coldStart || !(s.lane l).converterOn,
            faultCause := none, state := .admitting, record := some (ContainerRecord.fresh l (s.lane l).nextSeq),
            nextSeq := if (s.lane l).nextSeq < 65535 then (s.lane l).nextSeq + 1 else 1, belt := .forward, mouthOpen := true,
            curtain := { (s.lane l).curtain with phase := .waiting, pulses := 0, extent := 0, stops := 0 } })).apart) ∧
  (∀ (s : State) (l : Lane),
      s.Ready →
      ((s.lane l).state = .standby ∨ (s.lane l).state = .dormant) →
      (s.lane l).mouth.settled = false →
      (s.lane l).holds ≠ ⟨false, false, false, false⟩ →
      (s.lane l).weigher.run = .none →
      ∃ t, exec (.mouthBeamChange l true) s = .next t ∧
        t.Told (.lane (t.laneReport l)) ∧
        t.apart = (s.setLane l (LaneUnit.syncShutter { s.lane l with
            state := .ready, converterOn := true, coldStart := (s.lane l).coldStart || !(s.lane l).converterOn, belt := .off,
            faultCause := none, mouthOpen := false, mouth := ⟨true, false⟩,
            curtain := { (s.lane l).curtain with phase := .none } })).apart) ∧
  (∀ (s : State) (l : Lane),
      s.Ready →
      (s.lane l).state = .returning →
      (s.lane l).mouth.settled = false →
      (s.lane l).weigher.run = .none →
      exec (.mouthBeamChange l true) s = .next (s.setLane l (LaneUnit.syncShutter { s.lane l with
          mouth := ⟨true, false⟩, belt := .off }))) ∧
  (∀ (s : State) (l : Lane) (r : ContainerRecord),
      s.Ready →
      (s.lane l).state = .returning →
      (s.lane l).mouth.settled = true →
      (s.lane l).belt = .off →
      (s.lane l).record = some r →
      r.destination = none →
      (s.lane l).closePending = false →
      ((s.lane l).holdsAccept = false) →
      ∃ t, exec (.mouthBeamChange l false) s = .next t ∧
        t.Told (.lane (t.laneReport l)) ∧
        t.apart = (s.setLane l (LaneUnit.syncShutter { s.lane l with
            state := .ready, converterOn := true, coldStart := (s.lane l).coldStart || !(s.lane l).converterOn, belt := .off,
            faultCause := none, mouthOpen := false, mouth := ⟨false, false⟩, record := none,
            curtain := { (s.lane l).curtain with phase := .none } })).apart) ∧
  (∀ (s : State) (l : Lane),
      s.Ready →
      ((s.lane l).state = .admitting ∨ (s.lane l).state = .weigh ∨ (s.lane l).state = .query ∨ (s.lane l).state = .hold ∨
        (s.lane l).state = .handoff ∨ (s.lane l).state = .fault) →
      (s.lane l).weigher.run ≠ .autoZero →
      (s.lane l).mouth.settled = false →
      exec (.mouthBeamChange l true) s = .next (s.setLane l (LaneUnit.syncShutter { s.lane l with mouth := ⟨true, false⟩ }))) ∧
  (∀ (s : State) (l : Lane),
      s.Ready →
      ((s.lane l).state = .admitting ∨ (s.lane l).state = .weigh ∨ (s.lane l).state = .query ∨ (s.lane l).state = .hold ∨
        (s.lane l).state = .handoff ∨ (s.lane l).state = .fault) →
      (s.lane l).mouth.settled = true →
      exec (.mouthBeamChange l false) s = .next (s.setLane l (LaneUnit.syncShutter { s.lane l with
          mouth := ⟨false, false⟩, mouthOpen := false }))) ∧
  (∀ (s : State) (l : Lane),
      s.Ready →
      ((s.lane l).state = .ready ∨ (s.lane l).state = .standby ∨ (s.lane l).state = .dormant ∨ (s.lane l).state = .returning ∧
        (s.lane l).belt ≠ .off) →
      (s.lane l).mouth.settled = true →
      exec (.mouthBeamChange l false) s = .next (s.setLane l (LaneUnit.syncShutter { s.lane l with
          mouth := ⟨false, false⟩, mouthOpen := false }))) ∧
  (∀ (s : State) (l : Lane) (r : ContainerRecord),
      s.Ready →
      (s.lane l).state = .returning →
      (s.lane l).mouth.settled = true →
      (s.lane l).belt = .off →
      (s.lane l).record = some r →
      r.destination = none →
      (s.lane l).closePending = true →
      ((s.lane l).holdsAccept = false) →
      ∃ t, exec (.mouthBeamChange l false) s = .next t ∧
        t.Told (.lane (t.laneReport l)) ∧
        t.apart = (s.setLane l (LaneUnit.syncShutter (LaneUnit.closedIfDue { s.lane l with
            state := .ready, converterOn := true, coldStart := (s.lane l).coldStart || !(s.lane l).converterOn, belt := .off,
            faultCause := none, mouthOpen := false, mouth := ⟨false, false⟩, record := none,
            curtain := { (s.lane l).curtain with phase := .none } }))).apart)

/-- R4, R17, R18, R20, R36 and R39. -/
def Obligations.EncoderPulseCountsTheTravel : Prop :=
  (∀ (s : State) (l : Lane),
      s.Ready →
      ((s.lane l).belt = .off ∨ (s.lane l).belt = .forward ∧ ((s.lane l).curtain.phase = .none ∨ (s.lane l).curtain.phase =
        .waiting ∨ (s.lane l).curtain.phase = .ended)) →
      exec (.encoderPulse l) s = .next s) ∧
  (∀ (s : State) (l : Lane),
      s.Ready →
      (s.lane l).belt = .forward →
      (s.lane l).curtain.phase = .passing →
      ((s.lane l).curtain.pulses + 1) * (s.lane l).config.beltPitch ≤ (s.lane l).config.maxLength →
      exec (.encoderPulse l) s = .next (s.setLane l { s.lane l with
          curtain := { (s.lane l).curtain with pulses := (s.lane l).curtain.pulses + 1 } })) ∧
  (∀ (s : State) (l : Lane) (r : ContainerRecord),
      s.Ready →
      (s.lane l).belt = .forward →
      (s.lane l).state = .admitting →
      (s.lane l).curtain.phase = .passing →
      (s.lane l).config.maxLength < ((s.lane l).curtain.pulses + 1) * (s.lane l).config.beltPitch →
      (s.lane l).record = some r →
      r.verdict = none →
      r.destination = none →
      ∃ t, exec (.encoderPulse l) s = .next t ∧
        t.ToldOrLost (r.report (.reject .long) none) ∧
        t.Told (.lane (t.laneReport l)) ∧
        t.apart = (s.setLane l (LaneUnit.syncShutter { s.lane l with
            state := .returning, faultCause := none, mouthOpen := false, returnTravel := 0,
            belt := if (s.lane l).mouth.settled then .off else .reverse,
            record := some { r with verdict := some (.reject .long) },
            session := { (s.lane l).session with
                rejected := if (s.lane l).session.state = .opened then satSucc 65535 (s.lane l).session.rejected
                  else (s.lane l).session.rejected },
            curtain := { (s.lane l).curtain with pulses := (s.lane l).curtain.pulses + 1, phase := .ended } })).apart) ∧
  (∀ (s : State) (l : Lane),
      s.Ready →
      (s.lane l).belt = .forward →
      (s.lane l).curtain.phase = .stopping →
      (s.lane l).curtain.stops + 1 < (s.lane l).config.stopDistance →
      exec (.encoderPulse l) s = .next (s.setLane l { s.lane l with
          curtain := { (s.lane l).curtain with stops := (s.lane l).curtain.stops + 1 } })) ∧
  (∀ (s : State) (l : Lane) (r : ContainerRecord),
      s.Ready →
      (s.lane l).belt = .forward →
      (s.lane l).state = .admitting →
      (s.lane l).curtain.phase = .stopping →
      (s.lane l).config.stopDistance ≤ (s.lane l).curtain.stops + 1 →
      (s.lane l).record = some r →
      ∃ t, exec (.encoderPulse l) s = .next t ∧
        t.Told (.lane (t.laneReport l)) ∧
        t.apart = (s.setLane l (LaneUnit.syncShutter { s.lane l with
            state := .weigh, belt := .off, mouthOpen := false,
            curtain := { (s.lane l).curtain with stops := (s.lane l).curtain.stops + 1, phase := .ended },
            weigher := ⟨.container, .discard, .g16, if (s.lane l).coldStart then 64 else (s.lane l).config.settleCount,
              (s.lane l).coldStart, [], 0, none⟩ })).apart) ∧
  (∀ (s : State) (l : Lane),
      s.Ready →
      (s.lane l).belt = .reverse →
      (s.lane l).returnTravel + 1 ≤ (s.lane l).config.returnTravel →
      exec (.encoderPulse l) s = .next (s.setLane l { s.lane l with returnTravel := (s.lane l).returnTravel + 1 })) ∧
  (∀ (s : State) (l : Lane) (r : ContainerRecord),
      s.Ready →
      (s.lane l).state = .returning →
      (s.lane l).belt = .reverse →
      (s.lane l).config.returnTravel < (s.lane l).returnTravel + 1 →
      (s.lane l).record = some r →
      ∃ t, exec (.encoderPulse l) s = .next t ∧
        t.Told (.lane (t.laneReport l)) ∧
        t.apart = (s.setLane l (LaneUnit.syncShutter { s.lane l with
            state := .fault, faultCause := some .returnLost, belt := .off, mouthOpen := false, converterOn := true,
            coldStart := (s.lane l).coldStart || !(s.lane l).converterOn, returnTravel := (s.lane l).returnTravel + 1 })).apart)

/-- R4, R16 and R21. R63. R99 and R93. A row of a timer that does not run changes nothing (note 18). -/
def Obligations.LaneTimersAct : Prop :=
  (∀ (s : State) (l : Lane),
      s.Ready →
      ¬ ((s.lane l).state = .admitting ∧ (s.lane l).curtain.phase = .waiting) →
      exec (.admitTimerExpiry l) s = .next s) ∧
  (∀ (s : State) (l : Lane) (r : ContainerRecord),
      s.Ready →
      (s.lane l).state = .admitting →
      (s.lane l).curtain.phase = .waiting →
      (s.lane l).mouth.settled = false →
      (s.lane l).record = some r →
      r.verdict = none →
      r.destination = none →
      (s.lane l).closePending = false →
      ∃ t, exec (.admitTimerExpiry l) s = .next t ∧
        t.Told (.lane (t.laneReport l)) ∧
        t.apart = (s.setLane l (LaneUnit.syncShutter { s.lane l with
            state := .ready, converterOn := true, coldStart := (s.lane l).coldStart || !(s.lane l).converterOn, belt := .off,
            faultCause := none, mouthOpen := false, record := none, lastWithdrawn := r.seq,
            curtain := { (s.lane l).curtain with phase := .none } })).apart) ∧
  (∀ (s : State) (l : Lane) (r : ContainerRecord),
      s.Ready →
      (s.lane l).state = .admitting →
      (s.lane l).curtain.phase = .waiting →
      (s.lane l).mouth.settled = true →
      (s.lane l).record = some r →
      ∃ t, exec (.admitTimerExpiry l) s = .next t ∧
        t.Told (.lane (t.laneReport l)) ∧
        t.apart = (s.setLane l (LaneUnit.syncShutter { s.lane l with
            state := .fault, faultCause := some .mouthStuck, belt := .off, mouthOpen := false, converterOn := true,
            coldStart := (s.lane l).coldStart || !(s.lane l).converterOn,
            curtain := { (s.lane l).curtain with phase := .none } })).apart) ∧
  (∀ (s : State) (l : Lane),
      s.Ready →
      (s.lane l).belt = .off →
      exec (.beltStall l) s = .next s) ∧
  (∀ (s : State) (l : Lane) (r : ContainerRecord),
      s.Ready →
      ((s.lane l).state = .admitting ∨ (s.lane l).state = .returning) →
      (s.lane l).belt ≠ .off →
      (s.lane l).record = some r →
      ∃ t, exec (.beltStall l) s = .next t ∧
        t.Told (.lane (t.laneReport l)) ∧
        t.apart = (s.setLane l (LaneUnit.syncShutter { s.lane l with
            state := .fault, faultCause := some .beltStall, belt := .off, mouthOpen := false, converterOn := true,
            coldStart := (s.lane l).coldStart || !(s.lane l).converterOn,
            curtain := { (s.lane l).curtain with
                phase := if (s.lane l).state = .admitting then .none else (s.lane l).curtain.phase } })).apart) ∧
  (∀ (s : State) (l : Lane) (r : ContainerRecord) (n : Nat),
      s.Ready →
      (s.lane l).state = .handoff →
      (s.lane l).belt ≠ .off →
      (s.lane l).record = some r →
      s.pocket = .granted l n →
      l ∉ s.requests →
      ∃ t, exec (.beltStall l) s = .next t ∧
        t.Told (.lane (t.laneReport l)) ∧
        t.pocket.grantedTo l = false ∧
        (t.lane l).state = .fault ∧
        (t.lane l).faultCause = some .beltStall ∧
        (t.lane l).belt = .off ∧
        (t.lane l).record = some r ∧
        (t.lane l).session = (s.lane l).session ∧
        t.corePart = s.corePart ∧
        t.bins = s.bins) ∧
  (∀ (s : State) (l : Lane),
      s.Ready →
      (s.lane l).config.autoZeroInterval ≠ 0 →
      (s.lane l).state = .ready →
      (s.lane l).calRunning = false →
      (s.lane l).weigher.run = .none →
      (s.lane l).mouth.settled = false →
      exec (.autoZeroTimerExpiry l) s = .next (s.setLane l { s.lane l with
          weigher := ⟨.autoZero, .discard, .g16, if (s.lane l).coldStart then 64 else (s.lane l).config.settleCount,
            (s.lane l).coldStart, [], 0, none⟩ })) ∧
  (∀ (s : State) (l : Lane),
      s.Ready →
      ((s.lane l).config.autoZeroInterval = 0 ∨ (s.lane l).state ≠ .ready ∨ (s.lane l).calRunning = true ∨
        (s.lane l).weigher.run ≠ .none ∨ (s.lane l).mouth.settled = true) →
      exec (.autoZeroTimerExpiry l) s = .next s) ∧
  (∀ (s : State) (l : Lane) (r : ContainerRecord) (seq n : Nat) (code : Code),
      s.Ready →
      (s.lane l).query = .opened seq code n →
      (s.lane l).state = .query →
      (s.lane l).record = some r →
      r.verdict = none →
      r.destination = none →
      ∃ t, exec (.queryTimerExpiry l) s = .next t ∧
        t.ToldOrLost (r.report (.reject .queryTimeout) none) ∧
        t.Told (.lane (t.laneReport l)) ∧
        t.apart = (s.setLane l (LaneUnit.syncShutter { s.lane l with
            state := .returning, faultCause := none, mouthOpen := false, returnTravel := 0,
            belt := if (s.lane l).mouth.settled then .off else .reverse,
            record := some { r with verdict := some (.reject .queryTimeout) },
            session := { (s.lane l).session with
                rejected := if (s.lane l).session.state = .opened then satSucc 65535 (s.lane l).session.rejected
                  else (s.lane l).session.rejected },
            query := .idle })).apart) ∧
  (∀ (s : State) (l : Lane),
      s.Ready →
      (s.lane l).queryTimer = none →
      exec (.queryTimerExpiry l) s = .next s)

/-- R23, R24, R9, R14, R61, R8, R21 and R32. That the two rows stand for what an event's end does is the model's (note 2), as are the kept mouth of a CLOSED lane (note 13), the no effect of a stopped timer (note 18) and the free order of a scan's parts (note 7). At an entry to CLOSED the profile's three counts are 0: the model's choice (note 9). -/
def Obligations.LanesLowerAdmitCloseAndFaultAtTheirEvents : Prop :=
  (∀ (s : State) (l : Lane),
      s.Ready →
      ((s.lane l).state ≠ .ready ∨ (s.lane l).calRunning = true) →
      exec (.standbyTimerExpiry l) s = .next s) ∧
  (∀ (s : State) (l : Lane),
      s.Ready →
      (s.lane l).state = .ready →
      (s.lane l).calRunning = false →
      ∃ t, exec (.standbyTimerExpiry l) s = .next t ∧
        t.Told (.lane (t.laneReport l)) ∧
        t.apart = (s.setLane l (LaneUnit.syncShutter { s.lane l with
            state := .standby, weigher := if (s.lane l).weigher.run = .autoZero then Weigher.idle else (s.lane l).weigher })).apart
            ) ∧
  (∀ (s : State) (l : Lane),
      s.Ready →
      ((s.lane l).state ≠ .standby ∨ (s.lane l).session.state ≠ .none ∨ (s.lane l).config.dormantTime = 0) →
      exec (.dormantTimerExpiry l) s = .next s) ∧
  (∀ (s : State) (l : Lane),
      s.Ready →
      (s.lane l).state = .standby →
      (s.lane l).session.state = .none →
      (s.lane l).config.dormantTime ≠ 0 →
      ∃ t, exec (.dormantTimerExpiry l) s = .next t ∧
        t.Told (.lane (t.laneReport l)) ∧
        t.apart = (s.setLane l (LaneUnit.syncShutter { s.lane l with state := .dormant, converterOn := false })).apart) ∧
  (∀ (s : State) (l : Lane),
      s.resetAsserted = false →
      s.link.intake = [] →
      (s.lane l).state = .ready →
      (s.lane l).mouth.settled = true →
      (s.lane l).holds = ⟨false, false, false, false⟩ →
      (s.lane l).calRunning = false →
      (s.lane l).closePending = false →
      l ∉ s.requests →
      ∃ t, exec (.admission l) s = .next t ∧
        (t.lane l).state = .admitting ∧
        (t.lane l).record = some (ContainerRecord.fresh l (s.lane l).nextSeq) ∧
        (t.lane l).nextSeq = (if (s.lane l).nextSeq < 65535 then (s.lane l).nextSeq + 1 else 1) ∧
        (t.lane l).belt = .forward ∧
        (t.lane l).curtain.phase = .waiting ∧
        (t.lane l).shutter = true ∧
        Keeps { s with lanes := t.lanes } t ∧
        (∀ l' : Lane, (t.lane l').keptPart = (s.lane l').keptPart) ∧
        t.corePart = s.corePart) ∧
  (∀ (s : State) (l : Lane),
      s.resetAsserted = false →
      s.link.intake = [] →
      (s.lane l).state ≠ .closed →
      (s.lane l).closePending = true →
      (s.lane l).record = none →
      (s.lane l).session.state = .none →
      (s.lane l).calRunning = false →
      l ∉ s.requests →
      ∃ t, exec (.laneEntersClosed l) s = .next t ∧
        (t.lane l).state = .closed ∧
        (t.lane l).holds = ⟨false, false, false, false⟩ ∧
        (t.lane l).closePending = false ∧
        (t.lane l).belt = .off ∧
        (t.lane l).curtain = Curtain.reset ∧
        (t.lane l).weigher = Weigher.idle ∧
        (t.lane l).nextSeq = (s.lane l).nextSeq ∧
        (t.lane l).coldStart = (s.lane l).coldStart ∧
        (t.lane l).converterOn = (s.lane l).converterOn ∧
        (∀ l' : Lane, (t.lane l').keptPart = (s.lane l').keptPart) ∧
        t.corePart = s.corePart) ∧
  (∀ (s : State) (l : Lane),
      s.Ready →
      exec (.admission l) s = .next s) ∧
  (∀ (s : State) (l : Lane),
      s.Ready →
      exec (.laneEntersClosed l) s = .next s) ∧
  (∀ (s : State) (l : Lane) (x : BitVec 16),
      s.Ready →
      (s.lane l).converterOn = true →
      (s.lane l).weigher.phase = .window →
      (s.lane l).weigher.samples.length = 15 →
      (s.lane l).state = .ready →
      (s.lane l).calRunning = true →
      (s.lane l).mouth.settled = true →
      (s.lane l).holds = ⟨false, false, false, false⟩ →
      (s.lane l).closePending = false →
      (s.lane l).record = none →
      (s.lane l).weigher.run = .zero →
      ((s.lane l).weigher.samples ++ [x.toInt]).any atEnd = false →
      spreadOf ((s.lane l).weigher.samples ++
        [x.toInt]) ≤ stabilityLimit (s.lane l).config.stabilityLimit (s.lane l).weigher.gain →
      ∃ t, exec (.converterSample l x) s = .next t ∧
        t.Told (.calibration ⟨l, .zero, .done, (((s.lane l).weigher.samples ++
          [x.toInt]).sum * (16 / (s.lane l).weigher.gain.factor : Nat)), (s.lane l).span, none⟩) ∧
        t.Told (.lane (t.laneReport l)) ∧
        t.apart = (s.setLane l (LaneUnit.syncShutter { s.lane l with
            zero := (((s.lane l).weigher.samples ++ [x.toInt]).sum * (16 / (s.lane l).weigher.gain.factor : Nat)),
            calRunning := false, weigher := Weigher.idle, state := .admitting,
            record := some (ContainerRecord.fresh l (s.lane l).nextSeq),
            nextSeq := if (s.lane l).nextSeq < 65535 then (s.lane l).nextSeq + 1 else 1, belt := .forward, mouthOpen := true,
            curtain := { (s.lane l).curtain with phase := .waiting, pulses := 0, extent := 0, stops := 0 } })).apart) ∧
  (∀ (s : State) (l : Lane) (x : BitVec 16) (m : Nat),
      s.Ready →
      (s.lane l).converterOn = true →
      (s.lane l).weigher.phase = .window →
      (s.lane l).weigher.samples.length = 15 →
      (s.lane l).state = .ready →
      (s.lane l).calRunning = true →
      (s.lane l).mouth.settled = true →
      (s.lane l).holds = ⟨false, false, false, false⟩ →
      (s.lane l).closePending = false →
      (s.lane l).record = none →
      (s.lane l).weigher.run = .span →
      (s.lane l).weigher.refMass = some m →
      ((s.lane l).weigher.samples ++ [x.toInt]).any atEnd = false →
      spreadOf ((s.lane l).weigher.samples ++
        [x.toInt]) ≤ stabilityLimit (s.lane l).config.stabilityLimit (s.lane l).weigher.gain →
      0 < (((s.lane l).weigher.samples ++ [x.toInt]).sum * (16 / (s.lane l).weigher.gain.factor : Nat)) - (s.lane l).zero →
      1 ≤ spanOf m ((((s.lane l).weigher.samples ++
        [x.toInt]).sum * (16 / (s.lane l).weigher.gain.factor : Nat)) - (s.lane l).zero).toNat →
      spanOf m ((((s.lane l).weigher.samples ++
        [x.toInt]).sum * (16 / (s.lane l).weigher.gain.factor : Nat)) - (s.lane l).zero).toNat ≤ 65535 →
      ∃ t, exec (.converterSample l x) s = .next t ∧
        t.Told (.calibration ⟨l, .span, .done, (s.lane l).zero, spanOf m ((((s.lane l).weigher.samples ++
          [x.toInt]).sum * (16 / (s.lane l).weigher.gain.factor : Nat)) - (s.lane l).zero).toNat, none⟩) ∧
        t.Told (.lane (t.laneReport l)) ∧
        t.apart = (s.setLane l (LaneUnit.syncShutter { s.lane l with
            span := spanOf m ((((s.lane l).weigher.samples ++
              [x.toInt]).sum * (16 / (s.lane l).weigher.gain.factor : Nat)) - (s.lane l).zero).toNat,
            calRunning := false, weigher := Weigher.idle, state := .admitting,
            record := some (ContainerRecord.fresh l (s.lane l).nextSeq),
            nextSeq := if (s.lane l).nextSeq < 65535 then (s.lane l).nextSeq + 1 else 1, belt := .forward, mouthOpen := true,
            curtain := { (s.lane l).curtain with phase := .waiting, pulses := 0, extent := 0, stops := 0 } })).apart) ∧
  (∀ (s : State) (l : Lane) (x : BitVec 16),
      s.Ready →
      (s.lane l).converterOn = true →
      (s.lane l).weigher.phase = .window →
      (s.lane l).weigher.samples.length = 15 →
      (s.lane l).state = .ready →
      (s.lane l).calRunning = true →
      (s.lane l).mouth.settled = true →
      (s.lane l).holds = ⟨false, false, false, false⟩ →
      (s.lane l).closePending = false →
      (s.lane l).record = none →
      ((s.lane l).weigher.run = .zero ∨ (s.lane l).weigher.run = .span) →
      ((s.lane l).weigher.samples ++ [x.toInt]).any atEnd = false →
      (stabilityLimit (s.lane l).config.stabilityLimit (s.lane l).weigher.gain : Int) < spreadOf ((s.lane l).weigher.samples ++
        [x.toInt]) →
      (s.lane l).config.attempts ≤ (s.lane l).weigher.attempts + 1 →
      ∃ t, exec (.converterSample l x) s = .next t ∧
        t.Told (.calibration ⟨l, if (s.lane l).weigher.run = .zero then .zero else .span, .unstable, (s.lane l).zero,
          (s.lane l).span, none⟩) ∧
        t.Told (.lane (t.laneReport l)) ∧
        t.apart = (s.setLane l (LaneUnit.syncShutter { s.lane l with
            zero := (s.lane l).zero, calRunning := false, weigher := Weigher.idle, state := .admitting,
            record := some (ContainerRecord.fresh l (s.lane l).nextSeq),
            nextSeq := if (s.lane l).nextSeq < 65535 then (s.lane l).nextSeq + 1 else 1, belt := .forward, mouthOpen := true,
            curtain := { (s.lane l).curtain with phase := .waiting, pulses := 0, extent := 0, stops := 0 } })).apart) ∧
  (∀ (s : State) (l : Lane) (x : BitVec 16),
      s.Ready →
      (s.lane l).converterOn = true →
      (s.lane l).weigher.phase = .window →
      (s.lane l).weigher.samples.length = 15 →
      (s.lane l).state = .ready →
      (s.lane l).calRunning = true →
      (s.lane l).closePending = true →
      (s.lane l).record = none →
      (s.lane l).session.state = .none →
      (s.lane l).weigher.run = .zero →
      ((s.lane l).weigher.samples ++ [x.toInt]).any atEnd = false →
      spreadOf ((s.lane l).weigher.samples ++
        [x.toInt]) ≤ stabilityLimit (s.lane l).config.stabilityLimit (s.lane l).weigher.gain →
      ∃ t, exec (.converterSample l x) s = .next t ∧
        t.Told (.calibration ⟨l, .zero, .done, (((s.lane l).weigher.samples ++
          [x.toInt]).sum * (16 / (s.lane l).weigher.gain.factor : Nat)), (s.lane l).span, none⟩) ∧
        t.Told (.lane (t.laneReport l)) ∧
        t.apart = (s.setLane l (LaneUnit.syncShutter { s.lane l with
            zero := (((s.lane l).weigher.samples ++ [x.toInt]).sum * (16 / (s.lane l).weigher.gain.factor : Nat)),
            state := .closed, faultCause := none, holds := HoldSet.none, closePending := false, calRunning := false,
            belt := .off, mouthOpen := false, curtain := Curtain.reset, weigher := Weigher.idle })).apart) ∧
  (∀ (s : State) (l : Lane) (x : BitVec 16) (m : Nat),
      s.Ready →
      (s.lane l).converterOn = true →
      (s.lane l).weigher.phase = .window →
      (s.lane l).weigher.samples.length = 15 →
      (s.lane l).state = .ready →
      (s.lane l).calRunning = true →
      (s.lane l).closePending = true →
      (s.lane l).record = none →
      (s.lane l).session.state = .none →
      (s.lane l).weigher.run = .span →
      (s.lane l).weigher.refMass = some m →
      ((s.lane l).weigher.samples ++ [x.toInt]).any atEnd = false →
      spreadOf ((s.lane l).weigher.samples ++
        [x.toInt]) ≤ stabilityLimit (s.lane l).config.stabilityLimit (s.lane l).weigher.gain →
      0 < (((s.lane l).weigher.samples ++ [x.toInt]).sum * (16 / (s.lane l).weigher.gain.factor : Nat)) - (s.lane l).zero →
      1 ≤ spanOf m ((((s.lane l).weigher.samples ++
        [x.toInt]).sum * (16 / (s.lane l).weigher.gain.factor : Nat)) - (s.lane l).zero).toNat →
      spanOf m ((((s.lane l).weigher.samples ++
        [x.toInt]).sum * (16 / (s.lane l).weigher.gain.factor : Nat)) - (s.lane l).zero).toNat ≤ 65535 →
      ∃ t, exec (.converterSample l x) s = .next t ∧
        t.Told (.calibration ⟨l, .span, .done, (s.lane l).zero, spanOf m ((((s.lane l).weigher.samples ++
          [x.toInt]).sum * (16 / (s.lane l).weigher.gain.factor : Nat)) - (s.lane l).zero).toNat, none⟩) ∧
        t.Told (.lane (t.laneReport l)) ∧
        t.apart = (s.setLane l (LaneUnit.syncShutter { s.lane l with
            span := spanOf m ((((s.lane l).weigher.samples ++
              [x.toInt]).sum * (16 / (s.lane l).weigher.gain.factor : Nat)) - (s.lane l).zero).toNat,
            state := .closed, faultCause := none, holds := HoldSet.none, closePending := false, calRunning := false,
            belt := .off, mouthOpen := false, curtain := Curtain.reset, weigher := Weigher.idle })).apart) ∧
  (∀ (s : State) (l : Lane) (x : BitVec 16),
      s.Ready →
      (s.lane l).converterOn = true →
      (s.lane l).weigher.phase = .window →
      (s.lane l).weigher.samples.length = 15 →
      (s.lane l).state = .ready →
      (s.lane l).calRunning = true →
      (s.lane l).closePending = true →
      (s.lane l).record = none →
      (s.lane l).session.state = .none →
      ((s.lane l).weigher.run = .zero ∨ (s.lane l).weigher.run = .span) →
      ((s.lane l).weigher.samples ++ [x.toInt]).any atEnd = false →
      (stabilityLimit (s.lane l).config.stabilityLimit (s.lane l).weigher.gain : Int) < spreadOf ((s.lane l).weigher.samples ++
        [x.toInt]) →
      (s.lane l).config.attempts ≤ (s.lane l).weigher.attempts + 1 →
      ∃ t, exec (.converterSample l x) s = .next t ∧
        t.Told (.calibration ⟨l, if (s.lane l).weigher.run = .zero then .zero else .span, .unstable, (s.lane l).zero,
          (s.lane l).span, none⟩) ∧
        t.Told (.lane (t.laneReport l)) ∧
        t.apart = (s.setLane l (LaneUnit.syncShutter { s.lane l with
            zero := (s.lane l).zero, state := .closed, faultCause := none, holds := HoldSet.none, closePending := false,
            calRunning := false, belt := .off, mouthOpen := false, curtain := Curtain.reset, weigher := Weigher.idle })).apart
            ) ∧
  (∀ (s : State) (l : Lane) (x : Scan),
      s.Ready →
      (s.lane l).state ≠ .closed →
      x.dark = 0#8 →
      ((s.lane l).curtain.phase = .none ∨ (s.lane l).curtain.phase = .ended) →
      (s.lane l).mouth.pending = true →
      x.mouth ≠ (s.lane l).mouth.settled →
      x.button = (s.lane l).button.settled →
      (s.lane l).button.pending = false →
      ((s.lane l).curtain.debounce (scanBeams x)).settled = 0 →
      ∃ t, exec (.curtainScan l x) s = .next t ∧
        ∃ u, exec (.mouthBeamChange l x.mouth) (s.setLane l { s.lane l with
            curtain := { (s.lane l).curtain.debounce (scanBeams x) with stray := 0 } }) = .next u ∧ t.apart = u.apart) ∧
  (∀ (s : State) (l : Lane) (x : Scan),
      s.Ready →
      (s.lane l).scanSettles x = false →
      x.dark ≠ 0#8 →
      ((s.lane l).curtain.stray = 2 ∨ (s.lane l).curtain.stray = 3) →
      ((s.lane l).state = .ready ∨ (s.lane l).state = .standby ∨ (s.lane l).state = .dormant) →
      (s.lane l).closePending = false →
      ∃ t, exec (.curtainScan l x) s = .next t ∧
        t.Told (.lane (t.laneReport l)) ∧
        t.apart = (s.setLane l (LaneUnit.syncShutter { s.lane l with
            state := .fault, faultCause := some .strayLight, belt := .off, mouthOpen := false, converterOn := true,
            coldStart := (s.lane l).coldStart || !(s.lane l).converterOn, curtain := { (s.lane l).curtain with stray := 3 },
            weigher := Weigher.idle, calRunning := false,
            mouth := ⟨(s.lane l).mouth.settled, x.mouth != (s.lane l).mouth.settled⟩,
            button := ⟨(s.lane l).button.settled, x.button != (s.lane l).button.settled⟩ })).apart) ∧
  (∀ (s : State) (l : Lane) (x : Scan) (r : ContainerRecord),
      s.Ready →
      (s.lane l).scanSettles x = false →
      x.dark ≠ 0#8 →
      ((s.lane l).curtain.stray = 2 ∨ (s.lane l).curtain.stray = 3) →
      (s.lane l).state = .hold →
      (s.lane l).record = some r →
      ∃ t, exec (.curtainScan l x) s = .next t ∧
        t.Told (.lane (t.laneReport l)) ∧
        (t.lane l).state = .fault ∧
        (t.lane l).faultCause = some .strayLight ∧
        (t.lane l).belt = .off ∧
        (t.lane l).record = some r ∧
        (t.lane l).session = (s.lane l).session ∧
        t.requests = s.requests.filter (· ≠ l) ∧
        t.pocket = s.pocket ∧
        t.bins = s.bins ∧
        t.corePart = s.corePart) ∧
  (∀ (s : State) (l : Lane) (x : Scan) (r : ContainerRecord) (n : Nat),
      s.Ready →
      (s.lane l).scanSettles x = false →
      x.dark ≠ 0#8 →
      ((s.lane l).curtain.stray = 2 ∨ (s.lane l).curtain.stray = 3) →
      (s.lane l).state = .handoff →
      (s.lane l).record = some r →
      s.pocket = .granted l n →
      l ∉ s.requests →
      ∃ t, exec (.curtainScan l x) s = .next t ∧
        t.Told (.lane (t.laneReport l)) ∧
        (t.lane l).state = .fault ∧
        (t.lane l).faultCause = some .strayLight ∧
        (t.lane l).belt = .off ∧
        (t.lane l).record = some r ∧
        (t.lane l).session = (s.lane l).session ∧
        t.pocket.grantedTo l = false ∧
        t.bins = s.bins ∧
        t.corePart = s.corePart)

/-- R41 and R44; what a line is judged to be has a statement of its own (R42, R43). The characters are taken in ASCII (note 23). -/
def Obligations.ReaderCharacterBuildsAndPostsALine : Prop :=
  (∀ (s : State) (l : Lane) (c : Byte) (e : Bool),
      s.Ready →
      (s.lane l).reader.skipping = true →
      (c ≠ 0x0D#8 ∨ e = true) →
      exec (.readerCharacter l c e) s = .next s) ∧
  (∀ (s : State) (l : Lane),
      s.Ready →
      (s.lane l).reader.skipping = true →
      exec (.readerCharacter l 0x0D#8 false) s = .next (s.setLane l { s.lane l with
          reader := { (s.lane l).reader with skipping := false } })) ∧
  (∀ (s : State) (l : Lane) (c : Byte),
      s.Ready →
      (s.lane l).reader.skipping = false →
      exec (.readerCharacter l c true) s = .next (s.setLane l { s.lane l with
          reader := { (s.lane l).reader with badLine := true } })) ∧
  (∀ (s : State) (l : Lane),
      s.Ready →
      (s.lane l).reader.skipping = false →
      exec (.readerCharacter l 0x0A#8 false) s = .next s) ∧
  (∀ (s : State) (l : Lane) (c : Byte),
      s.Ready →
      (s.lane l).reader.skipping = false →
      c ≠ 0x0D#8 →
      c ≠ 0x0A#8 →
      (s.lane l).reader.buffer.length < 16 →
      exec (.readerCharacter l c false) s = .next (s.setLane l { s.lane l with
          reader := { (s.lane l).reader with buffer := (s.lane l).reader.buffer ++ [c] } })) ∧
  (∀ (s : State) (l : Lane) (c : Byte),
      s.Ready →
      (s.lane l).reader.skipping = false →
      c ≠ 0x0D#8 →
      c ≠ 0x0A#8 →
      16 ≤ (s.lane l).reader.buffer.length →
      exec (.readerCharacter l c false) s = .next (s.setLane l { s.lane l with reader := ⟨[], false, true⟩ })) ∧
  (∀ (s : State) (l : Lane),
      s.Ready →
      (s.lane l).reader.skipping = false →
      ((s.lane l).zoneOpen = false ∨ judgeLine (s.lane l).reader.badLine (s.lane l).reader.buffer = .malformed) →
      exec (.readerCharacter l 0x0D#8 false) s = .next (s.setLane l { s.lane l with reader := ⟨[], false, false⟩ })) ∧
  (∀ (s : State) (l : Lane) (r : ContainerRecord) (k : Code),
      s.Ready →
      (s.lane l).reader.skipping = false →
      (s.lane l).record = some r →
      r.verdict = none →
      judgeLine (s.lane l).reader.badLine (s.lane l).reader.buffer = .good k →
      exec (.readerCharacter l 0x0D#8 false) s = .next (s.setLane l { s.lane l with
          reader := ⟨[], false, false⟩,
          record := some { r with
              code := some (r.code.getD k), conflict := r.conflict || decide (r.code ≠ none ∧ r.code ≠ some k) } })) ∧
  (∀ (s : State) (l : Lane) (r : ContainerRecord),
      s.Ready →
      (s.lane l).reader.skipping = false →
      (s.lane l).record = some r →
      r.verdict = none →
      judgeLine (s.lane l).reader.badLine (s.lane l).reader.buffer = .badRead →
      exec (.readerCharacter l 0x0D#8 false) s = .next (s.setLane l { s.lane l with
          reader := ⟨[], false, false⟩, record := some { r with badReads := if r.badReads < 255 then r.badReads + 1 else 255 } }))

/-- R48 and R50 to R53, R64 for AUTO_ZERO. -/
def Obligations.SamplesAreDiscardedAndGathered : Prop :=
  (∀ (s : State) (l : Lane) (x : BitVec 16),
      s.Ready →
      ((s.lane l).converterOn = false ∨ (s.lane l).weigher.phase = .idle) →
      exec (.converterSample l x) s = .next s) ∧
  (∀ (s : State) (l : Lane) (x : BitVec 16),
      s.Ready →
      (s.lane l).converterOn = true →
      (s.lane l).weigher.phase = .discard →
      1 < (s.lane l).weigher.discardRemaining →
      exec (.converterSample l x) s = .next (s.setLane l { s.lane l with
          weigher := { (s.lane l).weigher with discardRemaining := (s.lane l).weigher.discardRemaining - 1 } })) ∧
  (∀ (s : State) (l : Lane) (x : BitVec 16),
      s.Ready →
      (s.lane l).converterOn = true →
      (s.lane l).weigher.phase = .discard →
      (s.lane l).weigher.discardRemaining = 1 →
      exec (.converterSample l x) s = .next (s.setLane l { s.lane l with
          coldStart := (s.lane l).coldStart && !(s.lane l).weigher.coldDiscard,
          weigher := { (s.lane l).weigher with phase := .window, discardRemaining := 0, coldDiscard := false, samples := [] } }))
          ∧
  (∀ (s : State) (l : Lane) (x : BitVec 16),
      s.Ready →
      (s.lane l).converterOn = true →
      (s.lane l).weigher.phase = .window →
      (s.lane l).weigher.samples.length < 15 →
      exec (.converterSample l x) s = .next (s.setLane l { s.lane l with
          weigher := { (s.lane l).weigher with samples := ((s.lane l).weigher.samples ++ [x.toInt]) } })) ∧
  (∀ (s : State) (l : Lane) (x : BitVec 16),
      s.Ready →
      (s.lane l).converterOn = true →
      (s.lane l).weigher.phase = .window →
      (s.lane l).weigher.samples.length = 15 →
      (s.lane l).weigher.run ≠ .none →
      ((s.lane l).weigher.samples ++ [x.toInt]).any atEnd = false →
      (stabilityLimit (s.lane l).config.stabilityLimit (s.lane l).weigher.gain : Int) < spreadOf ((s.lane l).weigher.samples ++
        [x.toInt]) →
      (s.lane l).weigher.attempts + 1 < (s.lane l).config.attempts →
      exec (.converterSample l x) s = .next (s.setLane l { s.lane l with
          weigher := { (s.lane l).weigher with
              attempts := (s.lane l).weigher.attempts + 1, phase := .discard, discardRemaining := (s.lane l).config.settleCount,
              coldDiscard := false, samples := [] } })) ∧
  (∀ (s : State) (l : Lane) (x : BitVec 16),
      s.Ready →
      (s.lane l).converterOn = true →
      (s.lane l).weigher.phase = .window →
      (s.lane l).weigher.samples.length = 15 →
      ((s.lane l).weigher.run = .container ∨ (s.lane l).weigher.run = .span) →
      (s.lane l).weigher.gain ≠ .g1 →
      ((s.lane l).weigher.samples ++ [x.toInt]).any atEnd = true →
      exec (.converterSample l x) s = .next (s.setLane l { s.lane l with
          weigher := { (s.lane l).weigher with
              gain := if (s.lane l).weigher.gain = .g16 then .g4 else .g1, phase := .discard,
              discardRemaining := (s.lane l).config.settleCount, coldDiscard := false, samples := [] } })) ∧
  (∀ (s : State) (l : Lane) (x : BitVec 16),
      s.Ready →
      (s.lane l).converterOn = true →
      (s.lane l).weigher.phase = .window →
      (s.lane l).weigher.samples.length = 15 →
      (s.lane l).weigher.run = .autoZero →
      (((s.lane l).weigher.samples ++ [x.toInt]).any atEnd = true ∨
        (stabilityLimit (s.lane l).config.stabilityLimit (s.lane l).weigher.gain : Int) < spreadOf ((s.lane l).weigher.samples ++ [x.toInt]) ∧ (s.lane l).config.attempts ≤ (s.lane l).weigher.attempts + 1) →
      exec (.converterSample l x) s = .next (s.setLane l { s.lane l with weigher := Weigher.idle }))

/-- R54 and R59 to R64. -/
def Obligations.CalibrationRunsWriteZeroAndSpan : Prop :=
  (∀ (s : State) (l : Lane) (x : BitVec 16),
      s.Ready →
      (s.lane l).converterOn = true →
      (s.lane l).weigher.phase = .window →
      (s.lane l).weigher.samples.length = 15 →
      (s.lane l).mouth.settled = false →
      (s.lane l).closePending = false →
      (s.lane l).state = .ready →
      (s.lane l).weigher.run = .zero →
      ((s.lane l).weigher.samples ++ [x.toInt]).any atEnd = false →
      spreadOf ((s.lane l).weigher.samples ++
        [x.toInt]) ≤ stabilityLimit (s.lane l).config.stabilityLimit (s.lane l).weigher.gain →
      ∃ t, exec (.converterSample l x) s = .next t ∧
        t.Told (.calibration ⟨l, .zero, .done, (((s.lane l).weigher.samples ++
          [x.toInt]).sum * (16 / (s.lane l).weigher.gain.factor : Nat)), (s.lane l).span, none⟩) ∧
        t.apart = (s.setLane l (LaneUnit.syncShutter { s.lane l with
            zero := (((s.lane l).weigher.samples ++ [x.toInt]).sum * (16 / (s.lane l).weigher.gain.factor : Nat)),
            weigher := Weigher.idle, calRunning := false })).apart) ∧
  (∀ (s : State) (l : Lane) (x : BitVec 16) (m : Nat),
      s.Ready →
      (s.lane l).converterOn = true →
      (s.lane l).weigher.phase = .window →
      (s.lane l).weigher.samples.length = 15 →
      (s.lane l).mouth.settled = false →
      (s.lane l).closePending = false →
      (s.lane l).state = .ready →
      (s.lane l).weigher.run = .span →
      (s.lane l).weigher.refMass = some m →
      ((s.lane l).weigher.samples ++ [x.toInt]).any atEnd = false →
      spreadOf ((s.lane l).weigher.samples ++
        [x.toInt]) ≤ stabilityLimit (s.lane l).config.stabilityLimit (s.lane l).weigher.gain →
      0 < (((s.lane l).weigher.samples ++ [x.toInt]).sum * (16 / (s.lane l).weigher.gain.factor : Nat)) - (s.lane l).zero →
      1 ≤ spanOf m ((((s.lane l).weigher.samples ++
        [x.toInt]).sum * (16 / (s.lane l).weigher.gain.factor : Nat)) - (s.lane l).zero).toNat →
      spanOf m ((((s.lane l).weigher.samples ++
        [x.toInt]).sum * (16 / (s.lane l).weigher.gain.factor : Nat)) - (s.lane l).zero).toNat ≤ 65535 →
      ∃ t, exec (.converterSample l x) s = .next t ∧
        t.Told (.calibration ⟨l, .span, .done, (s.lane l).zero, spanOf m ((((s.lane l).weigher.samples ++
          [x.toInt]).sum * (16 / (s.lane l).weigher.gain.factor : Nat)) - (s.lane l).zero).toNat, none⟩) ∧
        t.apart = (s.setLane l (LaneUnit.syncShutter { s.lane l with
            span := spanOf m ((((s.lane l).weigher.samples ++
              [x.toInt]).sum * (16 / (s.lane l).weigher.gain.factor : Nat)) - (s.lane l).zero).toNat,
            weigher := Weigher.idle, calRunning := false })).apart) ∧
  (∀ (s : State) (l : Lane) (x : BitVec 16) (m : Nat),
      s.Ready →
      (s.lane l).converterOn = true →
      (s.lane l).weigher.phase = .window →
      (s.lane l).weigher.samples.length = 15 →
      (s.lane l).mouth.settled = false →
      (s.lane l).closePending = false →
      (s.lane l).state = .ready →
      (s.lane l).weigher.run = .span →
      (s.lane l).weigher.refMass = some m →
      ((s.lane l).weigher.samples ++ [x.toInt]).any atEnd = false →
      spreadOf ((s.lane l).weigher.samples ++
        [x.toInt]) ≤ stabilityLimit (s.lane l).config.stabilityLimit (s.lane l).weigher.gain →
      ((((s.lane l).weigher.samples ++ [x.toInt]).sum * (16 / (s.lane l).weigher.gain.factor : Nat)) - (s.lane l).zero ≤ 0 ∨
        spanOf m ((((s.lane l).weigher.samples ++
        [x.toInt]).sum * (16 / (s.lane l).weigher.gain.factor : Nat)) - (s.lane l).zero).toNat = 0 ∨
        65535 < spanOf m ((((s.lane l).weigher.samples ++
        [x.toInt]).sum * (16 / (s.lane l).weigher.gain.factor : Nat)) - (s.lane l).zero).toNat) →
      ∃ t, exec (.converterSample l x) s = .next t ∧
        t.Told (.calibration ⟨l, .span, .spanRange, (s.lane l).zero, (s.lane l).span, none⟩) ∧
        t.apart = (s.setLane l (LaneUnit.syncShutter { s.lane l with weigher := Weigher.idle, calRunning := false })).apart) ∧
  (∀ (s : State) (l : Lane) (x : BitVec 16),
      s.Ready →
      (s.lane l).converterOn = true →
      (s.lane l).weigher.phase = .window →
      (s.lane l).weigher.samples.length = 15 →
      (s.lane l).mouth.settled = false →
      (s.lane l).closePending = false →
      (s.lane l).state = .ready →
      (s.lane l).weigher.run = .autoZero →
      (s.lane l).calRunning = false →
      ((s.lane l).weigher.samples ++ [x.toInt]).any atEnd = false →
      spreadOf ((s.lane l).weigher.samples ++
        [x.toInt]) ≤ stabilityLimit (s.lane l).config.stabilityLimit (s.lane l).weigher.gain →
      driftOf ((((s.lane l).weigher.samples ++
        [x.toInt]).sum * (16 / (s.lane l).weigher.gain.factor : Nat)) - (s.lane l).zero) (s.lane l).span ≤ (s.lane l).config.zeroBand →
      exec (.converterSample l x) s = .next (s.setLane l { s.lane l with
          zero := (((s.lane l).weigher.samples ++ [x.toInt]).sum * (16 / (s.lane l).weigher.gain.factor : Nat)),
          weigher := Weigher.idle })) ∧
  (∀ (s : State) (l : Lane) (x : BitVec 16),
      s.Ready →
      (s.lane l).converterOn = true →
      (s.lane l).weigher.phase = .window →
      (s.lane l).weigher.samples.length = 15 →
      (s.lane l).mouth.settled = false →
      (s.lane l).closePending = false →
      (s.lane l).state = .ready →
      (s.lane l).weigher.run = .autoZero →
      (s.lane l).calRunning = false →
      ((s.lane l).weigher.samples ++ [x.toInt]).any atEnd = false →
      spreadOf ((s.lane l).weigher.samples ++
        [x.toInt]) ≤ stabilityLimit (s.lane l).config.stabilityLimit (s.lane l).weigher.gain →
      (s.lane l).config.zeroBand < driftOf ((((s.lane l).weigher.samples ++
        [x.toInt]).sum * (16 / (s.lane l).weigher.gain.factor : Nat)) - (s.lane l).zero) (s.lane l).span →
      ∃ t, exec (.converterSample l x) s = .next t ∧
        t.Told (.calibration ⟨l, .autoZero, .zeroDrift, (s.lane l).zero, (s.lane l).span,
          (some (driftOf ((((s.lane l).weigher.samples ++
          [x.toInt]).sum * (16 / (s.lane l).weigher.gain.factor : Nat)) - (s.lane l).zero) (s.lane l).span))⟩) ∧
        t.apart = (s.setLane l { s.lane l with weigher := Weigher.idle }).apart) ∧
  (∀ (s : State) (l : Lane) (x : BitVec 16),
      s.Ready →
      (s.lane l).converterOn = true →
      (s.lane l).weigher.phase = .window →
      (s.lane l).weigher.samples.length = 15 →
      (s.lane l).mouth.settled = false →
      (s.lane l).closePending = false →
      (s.lane l).state = .ready →
      ((s.lane l).weigher.run = .zero ∨ (s.lane l).weigher.run = .span ∧ (s.lane l).weigher.gain = .g1) →
      ((s.lane l).weigher.samples ++ [x.toInt]).any atEnd = true →
      ∃ t, exec (.converterSample l x) s = .next t ∧
        t.Told (.calibration ⟨l, if (s.lane l).weigher.run = .zero then .zero else .span, .scaleRange, (s.lane l).zero,
          (s.lane l).span, none⟩) ∧
        t.apart = (s.setLane l (LaneUnit.syncShutter { s.lane l with weigher := Weigher.idle, calRunning := false })).apart) ∧
  (∀ (s : State) (l : Lane) (x : BitVec 16),
      s.Ready →
      (s.lane l).converterOn = true →
      (s.lane l).weigher.phase = .window →
      (s.lane l).weigher.samples.length = 15 →
      (s.lane l).mouth.settled = false →
      (s.lane l).closePending = false →
      (s.lane l).state = .ready →
      ((s.lane l).weigher.run = .zero ∨ (s.lane l).weigher.run = .span) →
      ((s.lane l).weigher.samples ++ [x.toInt]).any atEnd = false →
      (stabilityLimit (s.lane l).config.stabilityLimit (s.lane l).weigher.gain : Int) < spreadOf ((s.lane l).weigher.samples ++
        [x.toInt]) →
      (s.lane l).config.attempts ≤ (s.lane l).weigher.attempts + 1 →
      ∃ t, exec (.converterSample l x) s = .next t ∧
        t.Told (.calibration ⟨l, if (s.lane l).weigher.run = .zero then .zero else .span, .unstable, (s.lane l).zero,
          (s.lane l).span, none⟩) ∧
        t.apart = (s.setLane l (LaneUnit.syncShutter { s.lane l with weigher := Weigher.idle, calRunning := false })).apart)

/-- R56 and R84 to R93, with the arithmetic of R54 and R55. -/
def Obligations.TheDecidingWindowJudgesTheContainer : Prop :=
  (∀ (s : State) (l : Lane) (x : BitVec 16) (r : ContainerRecord) (reason : Reason),
      s.Ready →
      (s.lane l).converterOn = true →
      (s.lane l).weigher.phase = .window →
      (s.lane l).weigher.samples.length = 15 →
      (s.lane l).state = .weigh →
      (s.lane l).weigher.run = .container →
      (s.lane l).record = some r →
      r.verdict = none →
      r.destination = none →
      ((s.lane l).weigher.samples ++ [x.toInt]).any atEnd = false →
      spreadOf ((s.lane l).weigher.samples ++
        [x.toInt]) ≤ stabilityLimit (s.lane l).config.stabilityLimit (s.lane l).weigher.gain →
      ({ r with
          weighing := some (.weight (weightOf ((((s.lane l).weigher.samples ++
            [x.toInt]).sum * (16 / (s.lane l).weigher.gain.factor : Nat)) - (s.lane l).zero) (s.lane l).span)),
          gain := some (s.lane l).weigher.gain } : ContainerRecord).goodCode = .error reason →
      ∃ t, exec (.converterSample l x) s = .next t ∧
        t.ToldOrLost (({ r with
            weighing := some (.weight (weightOf ((((s.lane l).weigher.samples ++
              [x.toInt]).sum * (16 / (s.lane l).weigher.gain.factor : Nat)) - (s.lane l).zero) (s.lane l).span)),
            gain := some (s.lane l).weigher.gain } : ContainerRecord).report (.reject reason) none) ∧
        t.Told (.lane (t.laneReport l)) ∧
        t.apart = (s.setLane l (LaneUnit.syncShutter { s.lane l with
            state := .returning, faultCause := none, mouthOpen := false, returnTravel := 0,
            belt := if (s.lane l).mouth.settled then .off else .reverse,
            record := some { r with
                weighing := some (.weight (weightOf ((((s.lane l).weigher.samples ++
                  [x.toInt]).sum * (16 / (s.lane l).weigher.gain.factor : Nat)) - (s.lane l).zero) (s.lane l).span)),
                gain := some (s.lane l).weigher.gain, verdict := some (.reject reason) },
            session := { (s.lane l).session with
                rejected := if (s.lane l).session.state = .opened then satSucc 65535 (s.lane l).session.rejected
                  else (s.lane l).session.rejected },
            weigher := Weigher.idle })).apart) ∧
  (∀ (s : State) (l : Lane) (x : BitVec 16) (r : ContainerRecord) (code : Code),
      s.Ready →
      (s.lane l).converterOn = true →
      (s.lane l).weigher.phase = .window →
      (s.lane l).weigher.samples.length = 15 →
      (s.lane l).state = .weigh →
      (s.lane l).weigher.run = .container →
      (s.lane l).record = some r →
      r.verdict = none →
      r.destination = none →
      ((s.lane l).weigher.samples ++ [x.toInt]).any atEnd = false →
      spreadOf ((s.lane l).weigher.samples ++
        [x.toInt]) ≤ stabilityLimit (s.lane l).config.stabilityLimit (s.lane l).weigher.gain →
      ({ r with
          weighing := some (.weight (weightOf ((((s.lane l).weigher.samples ++
            [x.toInt]).sum * (16 / (s.lane l).weigher.gain.factor : Nat)) - (s.lane l).zero) (s.lane l).span)),
          gain := some (s.lane l).weigher.gain } : ContainerRecord).goodCode = .ok code →
      s.lookup code = .excluded →
      ∃ t, exec (.converterSample l x) s = .next t ∧
        t.ToldOrLost (({ r with
            weighing := some (.weight (weightOf ((((s.lane l).weigher.samples ++
              [x.toInt]).sum * (16 / (s.lane l).weigher.gain.factor : Nat)) - (s.lane l).zero) (s.lane l).span)),
            gain := some (s.lane l).weigher.gain } : ContainerRecord).report (.reject .excluded) none) ∧
        t.Told (.lane (t.laneReport l)) ∧
        t.apart = (s.setLane l (LaneUnit.syncShutter { s.lane l with
            state := .returning, faultCause := none, mouthOpen := false, returnTravel := 0,
            belt := if (s.lane l).mouth.settled then .off else .reverse,
            record := some { r with
                weighing := some (.weight (weightOf ((((s.lane l).weigher.samples ++
                  [x.toInt]).sum * (16 / (s.lane l).weigher.gain.factor : Nat)) - (s.lane l).zero) (s.lane l).span)),
                gain := some (s.lane l).weigher.gain, verdict := some (.reject .excluded) },
            session := { (s.lane l).session with
                rejected := if (s.lane l).session.state = .opened then satSucc 65535 (s.lane l).session.rejected
                  else (s.lane l).session.rejected },
            weigher := Weigher.idle })).apart) ∧
  (∀ (s : State) (l : Lane) (x : BitVec 16) (r : ContainerRecord) (code : Code),
      s.Ready →
      (s.lane l).converterOn = true →
      (s.lane l).weigher.phase = .window →
      (s.lane l).weigher.samples.length = 15 →
      (s.lane l).state = .weigh →
      (s.lane l).weigher.run = .container →
      (s.lane l).record = some r →
      r.verdict = none →
      r.destination = none →
      ((s.lane l).weigher.samples ++ [x.toInt]).any atEnd = false →
      spreadOf ((s.lane l).weigher.samples ++
        [x.toInt]) ≤ stabilityLimit (s.lane l).config.stabilityLimit (s.lane l).weigher.gain →
      ({ r with
          weighing := some (.weight (weightOf ((((s.lane l).weigher.samples ++
            [x.toInt]).sum * (16 / (s.lane l).weigher.gain.factor : Nat)) - (s.lane l).zero) (s.lane l).span)),
          gain := some (s.lane l).weigher.gain } : ContainerRecord).goodCode = .ok code →
      s.lookup code = .unknown →
      (s.lane l).config.queryEnabled = false →
      ∃ t, exec (.converterSample l x) s = .next t ∧
        t.ToldOrLost (({ r with
            weighing := some (.weight (weightOf ((((s.lane l).weigher.samples ++
              [x.toInt]).sum * (16 / (s.lane l).weigher.gain.factor : Nat)) - (s.lane l).zero) (s.lane l).span)),
            gain := some (s.lane l).weigher.gain } : ContainerRecord).report (.reject .unknown) none) ∧
        t.Told (.lane (t.laneReport l)) ∧
        t.apart = (s.setLane l (LaneUnit.syncShutter { s.lane l with
            state := .returning, faultCause := none, mouthOpen := false, returnTravel := 0,
            belt := if (s.lane l).mouth.settled then .off else .reverse,
            record := some { r with
                weighing := some (.weight (weightOf ((((s.lane l).weigher.samples ++
                  [x.toInt]).sum * (16 / (s.lane l).weigher.gain.factor : Nat)) - (s.lane l).zero) (s.lane l).span)),
                gain := some (s.lane l).weigher.gain, verdict := some (.reject .unknown) },
            session := { (s.lane l).session with
                rejected := if (s.lane l).session.state = .opened then satSucc 65535 (s.lane l).session.rejected
                  else (s.lane l).session.rejected },
            weigher := Weigher.idle })).apart) ∧
  (∀ (s : State) (l : Lane) (x : BitVec 16) (r : ContainerRecord) (code : Code),
      s.Ready →
      (s.lane l).converterOn = true →
      (s.lane l).weigher.phase = .window →
      (s.lane l).weigher.samples.length = 15 →
      (s.lane l).state = .weigh →
      (s.lane l).weigher.run = .container →
      (s.lane l).record = some r →
      r.verdict = none →
      r.destination = none →
      ((s.lane l).weigher.samples ++ [x.toInt]).any atEnd = false →
      spreadOf ((s.lane l).weigher.samples ++
        [x.toInt]) ≤ stabilityLimit (s.lane l).config.stabilityLimit (s.lane l).weigher.gain →
      ({ r with
          weighing := some (.weight (weightOf ((((s.lane l).weigher.samples ++
            [x.toInt]).sum * (16 / (s.lane l).weigher.gain.factor : Nat)) - (s.lane l).zero) (s.lane l).span)),
          gain := some (s.lane l).weigher.gain } : ContainerRecord).goodCode = .ok code →
      s.lookup code = .unknown →
      (s.lane l).config.queryEnabled = true →
      ∃ t, exec (.converterSample l x) s = .next t ∧
        t.OnlyLane l s ∧
        (t.lane l).state = .query ∧
        (t.lane l).record = some { r with
            weighing := some (.weight (weightOf ((((s.lane l).weigher.samples ++
              [x.toInt]).sum * (16 / (s.lane l).weigher.gain.factor : Nat)) - (s.lane l).zero) (s.lane l).span)),
            gain := some (s.lane l).weigher.gain } ∧
        ((t.lane l).query = .opened r.seq code s.corner.queryTimeout ∧ t.Told (.codeQuery l r.seq code) ∨ (t.lane l).query =
          .waitingRoom r.seq code ∧ .codeQuery l r.seq code ∈ t.link.heldOut)) ∧
  (∀ (s : State) (l : Lane) (x : BitVec 16) (r : ContainerRecord) (code : Code) (c : ClassId) (reason : Reason),
      s.Ready →
      (s.lane l).converterOn = true →
      (s.lane l).weigher.phase = .window →
      (s.lane l).weigher.samples.length = 15 →
      (s.lane l).state = .weigh →
      (s.lane l).weigher.run = .container →
      (s.lane l).record = some r →
      r.verdict = none →
      r.destination = none →
      ((s.lane l).weigher.samples ++ [x.toInt]).any atEnd = false →
      spreadOf ((s.lane l).weigher.samples ++
        [x.toInt]) ≤ stabilityLimit (s.lane l).config.stabilityLimit (s.lane l).weigher.gain →
      ({ r with
          weighing := some (.weight (weightOf ((((s.lane l).weigher.samples ++
            [x.toInt]).sum * (16 / (s.lane l).weigher.gain.factor : Nat)) - (s.lane l).zero) (s.lane l).span)),
          gain := some (s.lane l).weigher.gain } : ContainerRecord).goodCode = .ok code →
      s.lookup code = .found c →
      s.classReason l { r with
          weighing := some (.weight (weightOf ((((s.lane l).weigher.samples ++
            [x.toInt]).sum * (16 / (s.lane l).weigher.gain.factor : Nat)) - (s.lane l).zero) (s.lane l).span)),
          gain := some (s.lane l).weigher.gain } c = some reason →
      ∃ t, exec (.converterSample l x) s = .next t ∧
        t.ToldOrLost (({ r with
            weighing := some (.weight (weightOf ((((s.lane l).weigher.samples ++
              [x.toInt]).sum * (16 / (s.lane l).weigher.gain.factor : Nat)) - (s.lane l).zero) (s.lane l).span)),
            gain := some (s.lane l).weigher.gain } : ContainerRecord).report (.reject reason) (some c)) ∧
        t.Told (.lane (t.laneReport l)) ∧
        t.apart = (s.setLane l (LaneUnit.syncShutter { s.lane l with
            state := .returning, faultCause := none, mouthOpen := false, returnTravel := 0,
            belt := if (s.lane l).mouth.settled then .off else .reverse,
            record := some { r with
                weighing := some (.weight (weightOf ((((s.lane l).weigher.samples ++
                  [x.toInt]).sum * (16 / (s.lane l).weigher.gain.factor : Nat)) - (s.lane l).zero) (s.lane l).span)),
                gain := some (s.lane l).weigher.gain, verdict := some (.reject reason) },
            session := { (s.lane l).session with
                rejected := if (s.lane l).session.state = .opened then satSucc 65535 (s.lane l).session.rejected
                  else (s.lane l).session.rejected },
            weigher := Weigher.idle })).apart) ∧
  (∀ (s : State) (l : Lane) (x : BitVec 16) (r : ContainerRecord) (code : Code) (c : ClassId),
      s.Ready →
      (s.lane l).converterOn = true →
      (s.lane l).weigher.phase = .window →
      (s.lane l).weigher.samples.length = 15 →
      (s.lane l).state = .weigh →
      (s.lane l).weigher.run = .container →
      (s.lane l).record = some r →
      r.verdict = none →
      r.destination = none →
      ((s.lane l).weigher.samples ++ [x.toInt]).any atEnd = false →
      spreadOf ((s.lane l).weigher.samples ++
        [x.toInt]) ≤ stabilityLimit (s.lane l).config.stabilityLimit (s.lane l).weigher.gain →
      ({ r with
          weighing := some (.weight (weightOf ((((s.lane l).weigher.samples ++
            [x.toInt]).sum * (16 / (s.lane l).weigher.gain.factor : Nat)) - (s.lane l).zero) (s.lane l).span)),
          gain := some (s.lane l).weigher.gain } : ContainerRecord).goodCode = .ok code →
      s.lookup code = .found c →
      s.classReason l { r with
          weighing := some (.weight (weightOf ((((s.lane l).weigher.samples ++
            [x.toInt]).sum * (16 / (s.lane l).weigher.gain.factor : Nat)) - (s.lane l).zero) (s.lane l).span)),
          gain := some (s.lane l).weigher.gain } c = none →
      s.chooseBin (s.classAt c).material (s.classAt c).preferred = none →
      ∃ t, exec (.converterSample l x) s = .next t ∧
        t.ToldOrLost (({ r with
            weighing := some (.weight (weightOf ((((s.lane l).weigher.samples ++
              [x.toInt]).sum * (16 / (s.lane l).weigher.gain.factor : Nat)) - (s.lane l).zero) (s.lane l).span)),
            gain := some (s.lane l).weigher.gain } : ContainerRecord).report (.reject .noBin) (some c)) ∧
        t.Told (.lane (t.laneReport l)) ∧
        t.apart = (s.setLane l (LaneUnit.syncShutter { s.lane l with
            state := .returning, faultCause := none, mouthOpen := false, returnTravel := 0,
            belt := if (s.lane l).mouth.settled then .off else .reverse,
            record := some { r with
                weighing := some (.weight (weightOf ((((s.lane l).weigher.samples ++
                  [x.toInt]).sum * (16 / (s.lane l).weigher.gain.factor : Nat)) - (s.lane l).zero) (s.lane l).span)),
                gain := some (s.lane l).weigher.gain, verdict := some (.reject .noBin) },
            session := { (s.lane l).session with
                rejected := if (s.lane l).session.state = .opened then satSucc 65535 (s.lane l).session.rejected
                  else (s.lane l).session.rejected },
            weigher := Weigher.idle })).apart) ∧
  (∀ (s : State) (l : Lane) (x : BitVec 16) (r : ContainerRecord) (code : Code) (c : ClassId) (b : BinId),
      s.Ready →
      (s.lane l).converterOn = true →
      (s.lane l).weigher.phase = .window →
      (s.lane l).weigher.samples.length = 15 →
      (s.lane l).state = .weigh →
      (s.lane l).weigher.run = .container →
      (s.lane l).record = some r →
      r.verdict = none →
      r.destination = none →
      ((s.lane l).weigher.samples ++ [x.toInt]).any atEnd = false →
      spreadOf ((s.lane l).weigher.samples ++
        [x.toInt]) ≤ stabilityLimit (s.lane l).config.stabilityLimit (s.lane l).weigher.gain →
      ({ r with
          weighing := some (.weight (weightOf ((((s.lane l).weigher.samples ++
            [x.toInt]).sum * (16 / (s.lane l).weigher.gain.factor : Nat)) - (s.lane l).zero) (s.lane l).span)),
          gain := some (s.lane l).weigher.gain } : ContainerRecord).goodCode = .ok code →
      s.lookup code = .found c →
      s.classReason l { r with
          weighing := some (.weight (weightOf ((((s.lane l).weigher.samples ++
            [x.toInt]).sum * (16 / (s.lane l).weigher.gain.factor : Nat)) - (s.lane l).zero) (s.lane l).span)),
          gain := some (s.lane l).weigher.gain } c = none →
      s.chooseBin (s.classAt c).material (s.classAt c).preferred = some b →
      ∃ t, exec (.converterSample l x) s = .next t ∧
        (t.lane l).record =
          some { { r with weighing := some (.weight (weightOf ((((s.lane l).weigher.samples ++ [x.toInt]).sum * (16 / (s.lane l).weigher.gain.factor : Nat)) - (s.lane l).zero) (s.lane l).span)), gain := some (s.lane l).weigher.gain } with
            verdict := some .accept, cls := some c, material := some (s.classAt c).material,
            unitValue := some (s.classAt c).deposit, destination := some b } ∧
        ((t.lane l).state = .hold ∧ l ∈ t.requests ∨ (t.lane l).state = .handoff ∧ t.pocket.grantedTo l = true) ∧
        (t.bin b).reserved = (s.bin b).reserved + 1 ∧
        t.corePart = s.corePart) ∧
  (∀ (s : State) (l : Lane) (x : BitVec 16) (r : ContainerRecord),
      s.Ready →
      (s.lane l).converterOn = true →
      (s.lane l).weigher.phase = .window →
      (s.lane l).weigher.samples.length = 15 →
      (s.lane l).state = .weigh →
      (s.lane l).weigher.run = .container →
      (s.lane l).record = some r →
      r.verdict = none →
      r.destination = none →
      ((s.lane l).weigher.samples ++ [x.toInt]).any atEnd = false →
      (stabilityLimit (s.lane l).config.stabilityLimit (s.lane l).weigher.gain : Int) < spreadOf ((s.lane l).weigher.samples ++
        [x.toInt]) →
      (s.lane l).config.attempts ≤ (s.lane l).weigher.attempts + 1 →
      ∃ t, exec (.converterSample l x) s = .next t ∧
        t.ToldOrLost (({ r with
            weighing := some .unstable, gain := some (s.lane l).weigher.gain }
            : ContainerRecord).report (.reject .unstable) none) ∧
        t.Told (.lane (t.laneReport l)) ∧
        t.apart = (s.setLane l (LaneUnit.syncShutter { s.lane l with
            state := .returning, faultCause := none, mouthOpen := false, returnTravel := 0,
            belt := if (s.lane l).mouth.settled then .off else .reverse,
            record := some { r with
                weighing := some .unstable, gain := some (s.lane l).weigher.gain, verdict := some (.reject .unstable) },
            session := { (s.lane l).session with
                rejected := if (s.lane l).session.state = .opened then satSucc 65535 (s.lane l).session.rejected
                  else (s.lane l).session.rejected },
            weigher := Weigher.idle })).apart) ∧
  (∀ (s : State) (l : Lane) (x : BitVec 16) (r : ContainerRecord),
      s.Ready →
      (s.lane l).converterOn = true →
      (s.lane l).weigher.phase = .window →
      (s.lane l).weigher.samples.length = 15 →
      (s.lane l).state = .weigh →
      (s.lane l).weigher.run = .container →
      (s.lane l).record = some r →
      r.verdict = none →
      r.destination = none →
      (s.lane l).weigher.gain = .g1 →
      ((s.lane l).weigher.samples ++ [x.toInt]).any atEnd = true →
      ((s.lane l).weigher.samples ++ [x.toInt]).any (· == -32768) = false →
      ∃ t, exec (.converterSample l x) s = .next t ∧
        t.ToldOrLost (({ r with
            weighing := some .overweight, gain := some .g1 } : ContainerRecord).report (.reject .overweight) none) ∧
        t.Told (.lane (t.laneReport l)) ∧
        t.apart = (s.setLane l (LaneUnit.syncShutter { s.lane l with
            state := .returning, faultCause := none, mouthOpen := false, returnTravel := 0,
            belt := if (s.lane l).mouth.settled then .off else .reverse,
            record := some { r with weighing := some .overweight, gain := some .g1, verdict := some (.reject .overweight) },
            session := { (s.lane l).session with
                rejected := if (s.lane l).session.state = .opened then satSucc 65535 (s.lane l).session.rejected
                  else (s.lane l).session.rejected },
            weigher := Weigher.idle })).apart) ∧
  (∀ (s : State) (l : Lane) (x : BitVec 16) (r : ContainerRecord),
      s.Ready →
      (s.lane l).converterOn = true →
      (s.lane l).weigher.phase = .window →
      (s.lane l).weigher.samples.length = 15 →
      (s.lane l).state = .weigh →
      (s.lane l).weigher.run = .container →
      (s.lane l).record = some r →
      r.verdict = none →
      r.destination = none →
      (s.lane l).weigher.gain = .g1 →
      ((s.lane l).weigher.samples ++ [x.toInt]).any atEnd = true →
      ((s.lane l).weigher.samples ++ [x.toInt]).any (· == -32768) = true →
      ∃ t, exec (.converterSample l x) s = .next t ∧
        t.Told (.lane (t.laneReport l)) ∧
        t.apart = (s.setLane l (LaneUnit.syncShutter { s.lane l with
            state := .fault, faultCause := some .scaleNegative, belt := .off, mouthOpen := false, converterOn := true,
            coldStart := (s.lane l).coldStart || !(s.lane l).converterOn, weigher := Weigher.idle })).apart)

/-- R92, R94 and R172 for ACCEPT; R97, R100 and R191 for the end of a query; R22, R94 and R167 for CLEARED, whose class is note 14; R87; R130, R131, R133, R137, R138 and R142; R155, whose event name is note 5; R124. -/
def Obligations.VerdictsAndTokensMakeTheirReports : Prop :=
  (∀ (s : State) (tag : Byte) (l : Lane) (seq : Nat) (code : Code) (r : ContainerRecord) (c : ClassId) (b : BinId),
      s.TakesCommands →
      (s.lane l).query.subject = some (seq, code) →
      seq ≠ 0 →
      (s.lane l).state = .query →
      (s.lane l).record = some r →
      r.verdict = none →
      r.destination = none →
      s.classReason l r c = none →
      s.chooseBin (s.classAt c).material (s.classAt c).preferred = some b →
      ∃ t, exec (.codeAnswer ⟨tag, 4⟩ l.val seq c.val) s = .next t ∧
        t.ToldOrLost (({ r with
            verdict := some .accept, cls := some c, material := some (s.classAt c).material,
            unitValue := some (s.classAt c).deposit, destination := some b } : ContainerRecord).report .accept (some c)) ∧
        ((s.lane l).session.voucherWaiting = true → ∀ x ∈ t.link.heldOut, x.isVoucherOf l = false) ∧
        (t.lane l).session = { (s.lane l).session with voucherWaiting := false } ∧
        (∀ x ∈ t.link.heldOut, x.isCodeQueryOf l = false) ∧
        (∀ x ∈ s.link.queue, x.isCodeQueryOf l = true → x ∈ t.link.queue)) ∧
  (∀ (s : State) (tag : Byte) (l : Lane) (seq : Nat) (code : Code) (r : ContainerRecord),
      s.TakesCommands →
      (s.lane l).query.subject = some (seq, code) →
      seq ≠ 0 →
      (s.lane l).state = .query →
      (s.lane l).record = some r →
      r.verdict = none →
      r.destination = none →
      ∃ t, exec (.codeAnswer ⟨tag, 4⟩ l.val seq 255) s = .next t ∧
        (∀ x ∈ t.link.heldOut, x.isCodeQueryOf l = false) ∧
        (∀ x ∈ s.link.queue, x.isCodeQueryOf l = true → x ∈ t.link.queue)) ∧
  (∀ (s : State) (l : Lane) (x : BitVec 16) (r : ContainerRecord) (code : Code) (c : ClassId) (b : BinId),
      s.Ready →
      (s.lane l).converterOn = true →
      (s.lane l).weigher.phase = .window →
      (s.lane l).weigher.samples.length = 15 →
      (s.lane l).state = .weigh →
      (s.lane l).weigher.run = .container →
      (s.lane l).record = some r →
      r.verdict = none →
      r.destination = none →
      ((s.lane l).weigher.samples ++ [x.toInt]).any atEnd = false →
      spreadOf ((s.lane l).weigher.samples ++
        [x.toInt]) ≤ stabilityLimit (s.lane l).config.stabilityLimit (s.lane l).weigher.gain →
      ({ r with
          weighing := some (.weight (weightOf ((((s.lane l).weigher.samples ++
            [x.toInt]).sum * (16 / (s.lane l).weigher.gain.factor : Nat)) - (s.lane l).zero) (s.lane l).span)),
          gain := some (s.lane l).weigher.gain } : ContainerRecord).goodCode = .ok code →
      s.lookup code = .found c →
      s.classReason l { r with
          weighing := some (.weight (weightOf ((((s.lane l).weigher.samples ++
            [x.toInt]).sum * (16 / (s.lane l).weigher.gain.factor : Nat)) - (s.lane l).zero) (s.lane l).span)),
          gain := some (s.lane l).weigher.gain } c = none →
      s.chooseBin (s.classAt c).material (s.classAt c).preferred = some b →
      ∃ t, exec (.converterSample l x) s = .next t ∧
        t.ToldOrLost (({ r with
            weighing := some (.weight (weightOf ((((s.lane l).weigher.samples ++
              [x.toInt]).sum * (16 / (s.lane l).weigher.gain.factor : Nat)) - (s.lane l).zero) (s.lane l).span)),
            gain := some (s.lane l).weigher.gain, verdict := some .accept, cls := some c,
            material := some (s.classAt c).material, unitValue := some (s.classAt c).deposit, destination := some b }
            : ContainerRecord).report .accept (some c)) ∧
        ((s.lane l).session.voucherWaiting = true → ∀ x ∈ t.link.heldOut, x.isVoucherOf l = false) ∧
        (t.lane l).session = { (s.lane l).session with voucherWaiting := false }) ∧
  (∀ (s : State) (tag : Byte) (l : Lane) (r : ContainerRecord),
      s.TakesCommands →
      (s.lane l).state = .query →
      (s.lane l).record = some r →
      ∃ t, exec (.clearLaneReturn ⟨tag, 3⟩ l.val) s = .next t ∧
        (t.lane l).query = .idle ∧
        (∀ x ∈ t.link.heldOut, x.isCodeQueryOf l = false) ∧
        (∀ x ∈ s.link.queue, x.isCodeQueryOf l = true → x ∈ t.link.queue)) ∧
  (∀ (s : State) (tag : Byte) (l : Lane),
      s.TakesCommands →
      (s.lane l).state = .query →
      (s.lane l).mouth.settled = false →
      (s.lane l).curtain.settled = 0 →
      ∃ t, exec (.clearLaneDiscard ⟨tag, 3⟩ l.val) s = .next t ∧
        (t.lane l).query = .idle ∧
        (∀ x ∈ t.link.heldOut, x.isCodeQueryOf l = false) ∧
        (∀ x ∈ s.link.queue, x.isCodeQueryOf l = true → x ∈ t.link.queue)) ∧
  (∀ (s : State) (l : Lane) (x : Scan),
      s.Ready →
      (s.lane l).scanSettles x = false →
      x.dark ≠ 0#8 →
      ((s.lane l).curtain.stray = 2 ∨ (s.lane l).curtain.stray = 3) →
      (s.lane l).state = .query →
      ∃ t, exec (.curtainScan l x) s = .next t ∧
        (t.lane l).query = .idle ∧
        (t.lane l).state = .fault ∧
        (t.lane l).record = (s.lane l).record ∧
        (∀ x ∈ t.link.heldOut, x.isCodeQueryOf l = false) ∧
        (∀ x ∈ s.link.queue, x.isCodeQueryOf l = true → x ∈ t.link.queue)) ∧
  (∀ (s : State) (tag : Byte) (l : Lane) (r : ContainerRecord),
      s.TakesCommands →
      ((s.lane l).state = .fault ∨ (s.lane l).state = .query ∨ (s.lane l).state = .hold) →
      (s.lane l).record = some r →
      Verdict.isReject r.verdict = false →
      ∃ t, exec (.clearLaneReturn ⟨tag, 3⟩ l.val) s = .next t ∧
        t.ToldOrLost (r.report (.reject .cleared) (if r.verdict = some .accept then r.cls else none)) ∧
        ((s.lane l).session.state = .opened → (t.lane l).session = { (s.lane l).session with
            rejected := if (s.lane l).session.rejected < 65535 then (s.lane l).session.rejected + 1 else 65535 }) ∧
        ((s.lane l).session.state = .none → (t.lane l).session = (s.lane l).session)) ∧
  (∀ (s : State) (tag : Byte) (l : Lane) (r : ContainerRecord),
      s.TakesCommands →
      (s.lane l).state = .fault →
      (s.lane l).record = some r →
      Verdict.isReject r.verdict = true →
      ∃ t, exec (.clearLaneReturn ⟨tag, 3⟩ l.val) s = .next t ∧
        (t.lane l).session = (s.lane l).session ∧
        (∀ x, .container x ∈ t.link.queue → .container x ∈ s.link.queue)) ∧
  (∀ r : ContainerRecord,
      (r.conflict = true → r.goodCode = .error .conflict) ∧
      (∀ c : Code, r.conflict = false → r.code = some c → r.goodCode = .ok c) ∧
      (r.conflict = false → r.code = none → r.badReads = 0 → r.goodCode = .error .noCode) ∧
      (r.conflict = false → r.code = none → r.badReads ≠ 0 → r.goodCode = .error .badCheck)) ∧
  (∀ (s : State) (b : BinId) (k : Token),
      s.Ready →
      s.Sound →
      (s.bin b).window = true →
      s.tokenAt (s.bin b).position = some k →
      ∃ t, exec .indexAdvance s = .next t ∧
        t.ToldOrLost (.ring (.stray k (s.bin b).position b .unconfirmed) t.catchCount)) ∧
  (∀ (s : State) (k : Token),
      s.Ready →
      s.Sound →
      s.tokenAt 31 = some k →
      ∃ t, exec .indexAdvance s = .next t ∧
        t.ToldOrLost (.ring (if s.endFlag then .caught k else .missing k) t.catchCount)) ∧
  (∀ (s : State),
      s.Ready →
      s.Sound →
      s.tokenAt 31 = none →
      s.endFlag = true →
      ∃ t, exec .indexAdvance s = .next t ∧
        t.ToldOrLost (.ring (.phantom) t.catchCount)) ∧
  (∀ (s : State) (b : BinId) (p q : Position) (k : Token),
      s.Ready →
      s.Sound →
      s.conveyor.carries = false →
      s.conveyor.code ≠ 1#8 →
      q.val = p.val + 1 →
      s.tokenAt p = some k →
      k.destination = some b →
      (s.bin b).position = q →
      ∃ t, exec .indexAdvance s = .next t ∧
        t.ToldOrLost (.ring (.stray k q b .notDiverted) t.catchCount)) ∧
  (∀ (s : State) (b : BinId) (p : Position) (k : Token) (m : Material),
      s.Ready →
      s.Sound →
      ((s.bin b).state = .opened ∨ (s.bin b).state = .compactPending) →
      (s.bin b).ready = true →
      s.tokenAt p = some k →
      k.destination = some b →
      k.material = some m →
      (∀ b' : BinId, b' ≠ b → (s.bin b').eligible m = true → (s.bin b').position ≤ p) →
      ∃ t, exec (.binReadyChange b false) s = .next t ∧
        (t.tokenAt p).map (·.destination) = some none ∧
        t.ToldOrLost (.ring (.stray k p b .noReroute) t.catchCount)) ∧
  (∀ (s : State) (b : BinId),
      s.Ready →
      (s.bin b).window = true →
      s.Sound →
      (s.bin b).fill + 1 = (s.bin b).nearFull →
      ∃ t, exec (.binEntryBeamBlocked b) s = .next t ∧
        (t.Told (.bin (t.binReport b .nearFull)) ∨ (t.bin b).state ≠ (s.bin b).state ∧ t.Told (.bin (t.binReport b .state))) ∧
        (t.binReport b .nearFull).nearFull = true) ∧
  (∀ (s : State) (b : BinId),
      s.Ready →
      (s.bin b).window = true →
      s.Sound →
      (s.bin b).fill + 1 ≠ (s.bin b).nearFull →
      ((s.bin b).fill + 1 = (s.bin b).capacity ∨ (s.bin b).state = .compactPending ∧ (s.bin b).reserved = 1) →
      ∃ t, exec (.binEntryBeamBlocked b) s = .next t ∧
        t.Told (.bin (t.binReport b .state))) ∧
  (∀ (s : State) (m n : Nat), s.Ready → s.conveyor = .runOut m n →
      s.requests = [] ∧ (s.pocket = .empty ∨ s.pocket = .fault) ∧ ∀ p : Position, s.tokenAt p = none)

/-- R108 and R109. R113 and R116. A row of a timer that does not run changes nothing (note 18). That the row stands for what an event's end does is the model's (note 2). -/
def Obligations.PocketGrantAndItsTimers : Prop :=
  (∀ (s : State) (l : Lane) (rest : List Lane),
      s.resetAsserted = false →
      s.link.intake = [] →
      s.pocket = .empty →
      s.pocketBeam = false →
      s.conveyor.barsGrants = false →
      s.catchCount < s.corner.catchCapacity →
      s.requests = l :: rest →
      l ∉ rest →
      (s.lane l).record ≠ none →
      ∃ t, exec .pocketGrant s = .next t ∧
        t.requests = rest ∧
        t.pocket = .granted l (s.lane l).config.handoffTime ∧
        (t.lane l).state = .handoff ∧
        (t.lane l).belt = .forward ∧
        (t.lane l).record = (s.lane l).record ∧
        t.corePart = s.corePart ∧
        (∀ l' : Lane, (t.lane l').keptPart = (s.lane l').keptPart)) ∧
  (∀ (s : State),
      s.Ready →
      exec .pocketGrant s = .next s) ∧
  (∀ (s : State) (l : Lane) (n : Nat) (r : ContainerRecord),
      s.Ready →
      s.pocket = .granted l n →
      (s.lane l).state = .handoff →
      (s.lane l).record = some r →
      l ∉ s.requests →
      ∃ t, exec .handoffTimerExpiry s = .next t ∧
        t.Told (.lane (t.laneReport l)) ∧
        (t.lane l).state = .fault ∧
        (t.lane l).faultCause = some .handoffTimeout ∧
        (t.lane l).belt = .off ∧
        (t.lane l).record = some r ∧
        (t.lane l).session = (s.lane l).session ∧
        t.pocket.grantedTo l = false ∧
        t.bins = s.bins ∧
        t.corePart = s.corePart ∧
        (∀ l' : Lane, (t.lane l').keptPart = (s.lane l').keptPart)) ∧
  (∀ (s : State),
      s.Ready →
      (∀ l : Lane, s.pocket.grantedTo l = false) →
      exec .handoffTimerExpiry s = .next s) ∧
  (∀ (s : State) (n : Nat),
      s.Ready →
      s.pocket = .releasing n →
      ∃ t, exec .releaseTimerExpiry s = .next t ∧
        t.Told (.conveyor t.conveyorReport) ∧
        t.pocket = .fault ∧
        (∀ l : Lane, (t.lane l).isOpen = true → (t.lane l).holds.conveyor = true) ∧
        Keeps s t ∧
        t.requests = s.requests ∧
        t.bins = s.bins) ∧
  (∀ (s : State) (n : Nat),
      s.Ready →
      s.pocket ≠ .releasing n →
      s.pocket.code ≠ 4#8 →
      exec .releaseTimerExpiry s = .next s)

/-- R110 to R112, R114 and R116, with R166 and R171 to R173 for the session. A row that reports no change has no effect (note 4). -/
def Obligations.PocketBeamLoadsAndFrees : Prop :=
  (∀ (s : State) (v : Bool),
      s.Ready →
      s.pocketBeam = v →
      exec (.pocketBeamChange v) s = .next s) ∧
  (∀ (s : State),
      s.Ready →
      s.pocketBeam = false →
      s.pocket = .empty →
      ∃ t, exec (.pocketBeamChange true) s = .next t ∧
        t.Told (.conveyor t.conveyorReport) ∧
        t.pocket = .foreign ∧
        t.conveyor = (match s.conveyor with | .stopped => .starting s.corner.startTime | .runOut n _ => .running n | c => c) ∧
        Keeps { s with pocketBeam := true } t ∧
        t.requests = s.requests ∧
        t.bins = s.bins) ∧
  (∀ (s : State) (r : ContainerRecord),
      s.Ready →
      s.pocketBeam = false →
      (s.pocket = .loaded r ∨ s.pocket = .foreign ∨ s.pocket = .fault) →
      exec (.pocketBeamChange true) s = .next ({ s with pocketBeam := true })) ∧
  (∀ (s : State) (n : Nat),
      s.Ready →
      s.pocketBeam = false →
      s.pocket = .releasing n →
      exec (.pocketBeamChange true) s = .next ({ s with pocketBeam := true })) ∧
  (∀ (s : State) (l : Lane) (n : Nat) (r : ContainerRecord) (c : ClassId) (m : Material) (v : Nat) (b : BinId),
      s.Ready →
      s.pocketBeam = false →
      s.pocket = .granted l n →
      (s.lane l).record = some r →
      r.cls = some c →
      r.unitValue = some v →
      r.material = some m →
      r.destination = some b →
      ((s.bin b).state = .opened ∨ (s.bin b).state = .compactPending) →
      (s.bin b).materials.has m = true →
      (s.lane l).closePending = false →
      (s.lane l).session.state ≠ .closing →
      l ∉ s.requests →
      ∃ t, exec (.pocketBeamChange true) s = .next t ∧
        t.pocket = .loaded r ∧
        ((t.lane l).state = .ready ∧ (t.lane l).record = none ∧ (t.lane l).belt = .off ∨ (t.lane l).state = .admitting ∧
          (t.lane l).record = some (ContainerRecord.fresh l (s.lane l).nextSeq) ∧ (s.lane l).mouth.settled = true) ∧
        (t.lane l).session = (s.lane l).session.credited c v ∧
        Keeps { s with pocketBeam := true, lanes := t.lanes } t ∧
        (∀ l' : Lane, (t.lane l').keptPart = (s.lane l').keptPart) ∧
        t.requests = s.requests) ∧
  (∀ (s : State) (l : Lane) (n : Nat) (r : ContainerRecord) (c : ClassId) (m : Material) (v : Nat),
      s.Ready →
      s.pocketBeam = false →
      s.pocket = .granted l n →
      (s.lane l).record = some r →
      r.cls = some c →
      r.unitValue = some v →
      r.material = some m →
      r.destination = none →
      (s.lane l).closePending = false →
      (s.lane l).session.state ≠ .closing →
      l ∉ s.requests →
      ∃ t, exec (.pocketBeamChange true) s = .next t ∧
        t.pocket = .loaded { r with destination := s.chooseBin m (s.classAt c).preferred } ∧
        ((t.lane l).state = .ready ∧ (t.lane l).record = none ∧ (t.lane l).belt = .off ∨ (t.lane l).state = .admitting ∧
          (t.lane l).record = some (ContainerRecord.fresh l (s.lane l).nextSeq) ∧ (s.lane l).mouth.settled = true) ∧
        (t.lane l).session = (s.lane l).session.credited c v ∧
        (∀ b : BinId, (t.bin b).reserved = (s.bin b).reserved + (if s.chooseBin m (s.classAt c).preferred = some b then 1
          else 0)) ∧
        t.corePart = { s with pocketBeam := true }.corePart ∧
        (∀ l' : Lane, (t.lane l').keptPart = (s.lane l').keptPart) ∧
        t.requests = s.requests) ∧
  (∀ (s : State) (l : Lane) (n : Nat) (r : ContainerRecord) (c : ClassId) (m : Material) (v : Nat) (b : BinId),
      s.Ready →
      s.pocketBeam = false →
      s.pocket = .granted l n →
      (s.lane l).record = some r →
      r.cls = some c →
      r.unitValue = some v →
      r.material = some m →
      r.destination = some b →
      ¬ (((s.bin b).state = .opened ∨ (s.bin b).state = .compactPending) ∧ (s.bin b).materials.has m = true) →
      (s.lane l).closePending = false →
      (s.lane l).session.state ≠ .closing →
      l ∉ s.requests →
      ∃ t, exec (.pocketBeamChange true) s = .next t ∧
        t.pocket = .loaded { r with
            destination := (s.setBin b { s.bin b with
                reserved := (s.bin b).reserved - 1 }).chooseBin m (s.classAt c).preferred } ∧
        ((t.lane l).state = .ready ∧ (t.lane l).record = none ∧ (t.lane l).belt = .off ∨ (t.lane l).state = .admitting ∧
          (t.lane l).record = some (ContainerRecord.fresh l (s.lane l).nextSeq) ∧ (s.lane l).mouth.settled = true) ∧
        (t.lane l).session = (s.lane l).session.credited c v ∧
        (∀ b' : BinId, (t.bin b').reserved = ((s.setBin b { s.bin b with
            reserved := (s.bin b).reserved - 1 }).bin
            b').reserved + (if (s.setBin b { s.bin b with
                reserved := (s.bin b).reserved - 1 }).chooseBin m (s.classAt c).preferred = some b' then 1 else 0)) ∧
        t.corePart = { s with pocketBeam := true }.corePart ∧
        (∀ l' : Lane, (t.lane l').keptPart = (s.lane l').keptPart) ∧
        t.requests = s.requests) ∧
  (∀ (s : State) (l : Lane) (n : Nat) (r : ContainerRecord) (c : ClassId) (m : Material) (v : Nat) (b : BinId),
      s.Ready →
      s.pocketBeam = false →
      s.pocket = .granted l n →
      (s.lane l).record = some r →
      r.cls = some c →
      r.unitValue = some v →
      r.material = some m →
      r.destination = some b →
      ((s.bin b).state = .opened ∨ (s.bin b).state = .compactPending) →
      (s.bin b).materials.has m = true →
      ((s.lane l).closePending = true ∨ (s.lane l).session.state = .closing) →
      (s.lane l).state = .handoff →
      ((s.lane l).session.state = .closing → (s.lane l).holds.sessionClosing = true) →
      (s.lane l).session.voucherWaiting = false →
      (s.lane l).calRunning = false →
      l ∉ s.requests →
      ∃ t, exec (.pocketBeamChange true) s = .next t ∧
        t.pocket = .loaded r ∧
        (s.link.queue.length < 32 ∧ t.VoucherGone l (if ((s.lane l).session.credited c v).state = .closing
          then ((s.lane l).session.credited c v) else { ((s.lane l).session.credited c v) with
            state := .closing, cause := some .laneClosed })
            ∧ ((s.lane l).closePending = true → (t.lane l).state = .closed ∧ (t.lane l).record = none) ∧
              ((s.lane l).closePending = false → ((t.lane l).state = .ready ∧ (t.lane l).record = none ∧ (t.lane l).belt =
              .off ∨ (t.lane l).state = .admitting ∧ (t.lane l).record = some (ContainerRecord.fresh l (s.lane l).nextSeq) ∧
              (s.lane l).mouth.settled = true)) ∨ 30 < s.link.queue.length ∧
              t.VoucherWaits l (if ((s.lane l).session.credited c v).state = .closing then ((s.lane l).session.credited c v)
              else { ((s.lane l).session.credited c v) with
                state := .closing, cause := some .laneClosed }) ∧ (t.lane l).state = .ready ∧ (t.lane l).record = none) ∧
        t.Told (.lane (t.laneReport l)) ∧
        t.corePart = { s with pocketBeam := true }.corePart ∧
        (∀ l' : Lane, (t.lane l').keptPart = (s.lane l').keptPart) ∧
        t.requests = s.requests ∧
        t.bins = s.bins) ∧
  (∀ (s : State) (l : Lane) (n : Nat) (r : ContainerRecord) (c : ClassId) (m : Material) (v : Nat),
      s.Ready →
      s.pocketBeam = false →
      s.pocket = .granted l n →
      (s.lane l).record = some r →
      r.cls = some c →
      r.unitValue = some v →
      r.material = some m →
      r.destination = none →
      ((s.lane l).closePending = true ∨ (s.lane l).session.state = .closing) →
      (s.lane l).state = .handoff →
      ((s.lane l).session.state = .closing → (s.lane l).holds.sessionClosing = true) →
      (s.lane l).session.voucherWaiting = false →
      (s.lane l).calRunning = false →
      l ∉ s.requests →
      ∃ t, exec (.pocketBeamChange true) s = .next t ∧
        t.pocket = .loaded { r with destination := s.chooseBin m (s.classAt c).preferred } ∧
        (s.link.queue.length < 32 ∧ t.VoucherGone l (if ((s.lane l).session.credited c v).state = .closing
          then ((s.lane l).session.credited c v) else { ((s.lane l).session.credited c v) with
            state := .closing, cause := some .laneClosed })
            ∧ ((s.lane l).closePending = true → (t.lane l).state = .closed ∧ (t.lane l).record = none) ∧
              ((s.lane l).closePending = false → ((t.lane l).state = .ready ∧ (t.lane l).record = none ∧ (t.lane l).belt =
              .off ∨ (t.lane l).state = .admitting ∧ (t.lane l).record = some (ContainerRecord.fresh l (s.lane l).nextSeq) ∧
              (s.lane l).mouth.settled = true)) ∨ 30 < s.link.queue.length ∧
              t.VoucherWaits l (if ((s.lane l).session.credited c v).state = .closing then ((s.lane l).session.credited c v)
              else { ((s.lane l).session.credited c v) with
                state := .closing, cause := some .laneClosed }) ∧ (t.lane l).state = .ready ∧ (t.lane l).record = none) ∧
        t.Told (.lane (t.laneReport l)) ∧
        t.corePart = { s with pocketBeam := true }.corePart ∧
        (∀ l' : Lane, (t.lane l').keptPart = (s.lane l').keptPart) ∧
        t.requests = s.requests ∧
        (∀ b : BinId, (t.bin b).reserved = (s.bin b).reserved + (if s.chooseBin m (s.classAt c).preferred = some b then 1
          else 0))) ∧
  (∀ (s : State) (l : Lane) (n : Nat) (r : ContainerRecord) (c : ClassId) (m : Material) (v : Nat) (b : BinId),
      s.Ready →
      s.pocketBeam = false →
      s.pocket = .granted l n →
      (s.lane l).record = some r →
      r.cls = some c →
      r.unitValue = some v →
      r.material = some m →
      r.destination = some b →
      ¬ (((s.bin b).state = .opened ∨ (s.bin b).state = .compactPending) ∧ (s.bin b).materials.has m = true) →
      ((s.lane l).closePending = true ∨ (s.lane l).session.state = .closing) →
      (s.lane l).state = .handoff →
      ((s.lane l).session.state = .closing → (s.lane l).holds.sessionClosing = true) →
      (s.lane l).session.voucherWaiting = false →
      (s.lane l).calRunning = false →
      l ∉ s.requests →
      ∃ t, exec (.pocketBeamChange true) s = .next t ∧
        t.pocket = .loaded { r with
            destination := (s.setBin b { s.bin b with
                reserved := (s.bin b).reserved - 1 }).chooseBin m (s.classAt c).preferred } ∧
        (s.link.queue.length < 32 ∧ t.VoucherGone l (if ((s.lane l).session.credited c v).state = .closing
          then ((s.lane l).session.credited c v) else { ((s.lane l).session.credited c v) with
            state := .closing, cause := some .laneClosed })
            ∧ ((s.lane l).closePending = true → (t.lane l).state = .closed ∧ (t.lane l).record = none) ∧
              ((s.lane l).closePending = false → ((t.lane l).state = .ready ∧ (t.lane l).record = none ∧ (t.lane l).belt =
              .off ∨ (t.lane l).state = .admitting ∧ (t.lane l).record = some (ContainerRecord.fresh l (s.lane l).nextSeq) ∧
              (s.lane l).mouth.settled = true)) ∨ (if (s.bin b).state = .compactPending then 29
              else 30) < s.link.queue.length ∧ t.VoucherWaits l (if ((s.lane l).session.credited c v).state = .closing
              then ((s.lane l).session.credited c v) else { ((s.lane l).session.credited c v) with
                state := .closing, cause := some .laneClosed }) ∧ (t.lane l).state = .ready ∧ (t.lane l).record = none) ∧
        t.Told (.lane (t.laneReport l)) ∧
        t.corePart = { s with pocketBeam := true }.corePart ∧
        (∀ l' : Lane, (t.lane l').keptPart = (s.lane l').keptPart) ∧
        t.requests = s.requests ∧
        (∀ b' : BinId, (t.bin b').reserved = ((s.setBin b { s.bin b with
            reserved := (s.bin b).reserved - 1 }).bin
            b').reserved + (if (s.setBin b { s.bin b with
                reserved := (s.bin b).reserved - 1 }).chooseBin m (s.classAt c).preferred = some b' then 1 else 0))) ∧
  (∀ (s : State) (n : Nat),
      s.Ready →
      s.pocketBeam = true →
      s.pocket = .releasing n →
      ∃ t, exec (.pocketBeamChange false) s = .next t ∧
        (t.pocket = .empty ∨ ∃ l ∈ s.requests.head?, t.pocket = .granted l (s.lane l).config.handoffTime) ∧
        (s.requests = [] → t.pocket = .empty) ∧
        Keeps { s with pocketBeam := false } t) ∧
  (∀ (s : State) (r : ContainerRecord),
      s.Ready →
      s.pocketBeam = true →
      (s.pocket = .loaded r ∨ s.pocket = .foreign ∨ s.pocket = .fault) →
      exec (.pocketBeamChange false) s = .next ({ s with pocketBeam := false })) ∧
  (∀ (s : State) (l : Lane) (n : Nat),
      s.Ready →
      s.pocketBeam = true →
      s.pocket = .granted l n →
      exec (.pocketBeamChange false) s = .next ({ s with pocketBeam := false }))

/-- R122, R123 and R124; that the two rows stand for what an event's end does is the model's (note 2). A row of a timer that does not run changes nothing (note 18). -/
def Obligations.ConveyorTimersAndWork : Prop :=
  (∀ (s : State),
      s.resetAsserted = false →
      s.link.intake = [] →
      s.conveyor = .stopped →
      s.workPresent = true →
      ∃ t, exec .conveyorStarting s = .next t ∧
        t.conveyor = .starting s.corner.startTime ∧
        t.corePart = s.corePart ∧
        (∀ l' : Lane, (t.lane l').keptPart = (s.lane l').keptPart)) ∧
  (∀ (s : State) (n : Nat),
      s.resetAsserted = false →
      s.link.intake = [] →
      s.conveyor = .running n →
      s.workPresent = false →
      ∃ t, exec .conveyorRunOut s = .next t ∧
        t.conveyor = .runOut n s.corner.runOutTime ∧
        t.corePart = s.corePart ∧
        (∀ l' : Lane, (t.lane l').keptPart = (s.lane l').keptPart)) ∧
  (∀ (s : State),
      s.Ready →
      exec .conveyorStarting s = .next s) ∧
  (∀ (s : State),
      s.Ready →
      exec .conveyorRunOut s = .next s) ∧
  (∀ (s : State) (n : Nat),
      s.Ready →
      s.conveyor = .starting n →
      ∃ t, exec .startTimerExpiry s = .next t ∧
        t.Told (.conveyor t.conveyorReport) ∧
        t.conveyor = .fault ∧
        (∀ l : Lane, (t.lane l).isOpen = true → (t.lane l).holds.conveyor = true) ∧
        Keeps s t ∧
        t.requests = s.requests ∧
        t.pocket = s.pocket ∧
        t.bins = s.bins) ∧
  (∀ (s : State),
      s.Ready →
      s.conveyor.code ≠ 1#8 →
      exec .startTimerExpiry s = .next s) ∧
  (∀ (s : State),
      s.Ready →
      s.conveyor.carries = true →
      ∃ t, exec .stallTimerExpiry s = .next t ∧
        t.Told (.conveyor t.conveyorReport) ∧
        t.conveyor = .fault ∧
        (∀ l : Lane, (t.lane l).isOpen = true → (t.lane l).holds.conveyor = true) ∧
        Keeps s t ∧
        t.requests = s.requests ∧
        t.pocket = s.pocket ∧
        t.bins = s.bins) ∧
  (∀ (s : State),
      s.Ready →
      s.conveyor.carries = false →
      exec .stallTimerExpiry s = .next s) ∧
  (∀ (s : State) (m n : Nat),
      s.Ready →
      s.conveyor = .runOut m n →
      ∃ t, exec .runOutTimerExpiry s = .next t ∧
        t.Told (.conveyor t.conveyorReport) ∧
        t.apart = ({ s with conveyor := .stopped }).apart) ∧
  (∀ (s : State),
      s.Ready →
      s.conveyor.code ≠ 3#8 →
      exec .runOutTimerExpiry s = .next s)

/-- R134 and R136. -/
def Obligations.DiverterPulseEndsAndEndBeamSetsItsFlag : Prop :=
  (∀ (s : State) (b : BinId),
      s.Ready →
      exec (.diverterPulseEnd b) s = .next (s.setBin b { s.bin b with diverter := false })) ∧
  (∀ (s : State),
      s.Ready →
      exec .endOfLineBeamBlocked s = .next ({ s with endBeam := true, endFlag := true }))

/-- R129 to R133 with R115, R122 and R123, over sound states. -/
def Obligations.IndexAdvanceMovesReleasesAndDiverts : Prop :=
  (∀ (s : State),
      s.Ready →
      s.Sound →
      (s.conveyor.carries = true ∨ s.conveyor.code = 1#8) →
      ∃ t, exec .indexAdvance s = .next t ∧
        (∀ p q : Position, q.val = p.val + 1 → t.tokenAt q = (s.tokenAt p).map (fun k => { k with
            destination := if k.destination.any (fun b => (s.bin b).window && (s.bin b).position == p) then none
              else k.destination })) ∧
        t.tokenAt 0 =
          (match s.pocket with | .loaded r => some (Token.ofRecord r) | .foreign => some Token.foreign | _ => none) ∧
        ((s.pocket.code = 2#8 ∨ s.pocket.code = 3#8) → s.pocketBeam = true → t.pocket = .releasing s.corner.pocketReleaseTime) ∧
        t.endFlag = false ∧
        (∀ b : BinId, (t.bin b).window = true ↔ (t.tokenAt (t.bin b).position).bind (·.destination) = some b) ∧
        (∀ b : BinId, (t.bin b).window = true → (t.bin b).diverter = true) ∧
        t.counters.handedOff = s.counters.handedOff + (if s.pocket.code = 2#8 then 1 else 0) ∧
        t.counters.foreign = s.counters.foreign + (if s.pocket.code = 3#8 then 1 else 0) ∧
        t.counters.caught = s.counters.caught + (if (s.tokenAt 31).isSome && s.endFlag then 1 else 0) ∧
        t.counters.missing = s.counters.missing + (if (s.tokenAt 31).isSome && !s.endFlag then 1 else 0) ∧
        t.counters.phantom = s.counters.phantom + (if (s.tokenAt 31).isNone && s.endFlag then 1 else 0) ∧
        t.counters.delivered = s.counters.delivered ∧
        t.catchCount = (if s.endFlag then (if s.catchCount < 255 then s.catchCount + 1 else 255) else s.catchCount) ∧
        (t.conveyor = .running s.corner.stallTime ∨ ∃ n, t.conveyor = .runOut s.corner.stallTime n)) ∧
  (∀ (s : State),
      s.Ready →
      s.Sound →
      s.conveyor.carries = false →
      s.conveyor.code ≠ 1#8 →
      ∃ t, exec .indexAdvance s = .next t ∧
        (∀ p q : Position, q.val = p.val + 1 → t.tokenAt q = (s.tokenAt p).map (fun k => { k with
            destination :=
              if k.destination.any (fun b => (s.bin b).window && (s.bin b).position == p || (s.bin b).position == q) then none
              else k.destination })) ∧
        t.tokenAt 0 = none ∧
        t.endFlag = false ∧
        (∀ b : BinId, (t.bin b).window = false) ∧
        t.counters.handedOff = s.counters.handedOff ∧
        t.counters.foreign = s.counters.foreign ∧
        t.counters.caught = s.counters.caught + (if (s.tokenAt 31).isSome && s.endFlag then 1 else 0) ∧
        t.counters.missing = s.counters.missing + (if (s.tokenAt 31).isSome && !s.endFlag then 1 else 0) ∧
        t.counters.phantom = s.counters.phantom + (if (s.tokenAt 31).isNone && s.endFlag then 1 else 0) ∧
        t.counters.delivered = s.counters.delivered ∧
        t.catchCount = (if s.endFlag then (if s.catchCount < 255 then s.catchCount + 1 else 255) else s.catchCount) ∧
        t.conveyor = s.conveyor ∧
        t.pocket = s.pocket)

/-- R135, R155, R156 and R159. -/
def Obligations.EntryBeamDeliversOrCountsAStray : Prop :=
  (∀ (s : State) (b : BinId),
      s.Ready →
      (s.bin b).window = true →
      s.Sound →
      ∃ t, exec (.binEntryBeamBlocked b) s = .next t ∧
        (t.bin b).window = false ∧
        t.tokenAt (s.bin b).position = none ∧
        (∀ p : Position, p ≠ (s.bin b).position → t.tokenAt p = s.tokenAt p) ∧
        t.counters = { s.counters with delivered := s.counters.delivered + 1 } ∧
        (t.bin b).fill = (s.bin b).fill + 1 ∧
        (t.bin b).reserved + 1 = (s.bin b).reserved ∧
        ((t.bin b).state = if (s.bin b).fill + 1 = (s.bin b).capacity then .full else if (s.bin b).state = .compactPending ∨
          ((s.bin b).interval ≠ 0 ∧ ((s.bin b).fill + 1) % (s.bin b).interval = 0 ∧ (s.bin b).state = .opened)
          then (if (s.bin b).reserved = 1 then .compacting else .compactPending) else (s.bin b).state) ∧
        (∀ b' : BinId, b' ≠ b → (s.bin b').state ≠ .compactPending → t.bin b' = s.bin b') ∧
        (∀ l' : Lane, (t.lane l').keptPart = (s.lane l').keptPart)) ∧
  (∀ (s : State) (b : BinId),
      s.Ready →
      (s.bin b).window = false →
      (s.bin b).state ≠ .unconfigured →
      ∃ t, exec (.binEntryBeamBlocked b) s = .next t ∧
        t.Told (.bin (t.binReport b .strayIn)) ∧
        t.apart = (s.setBin b { s.bin b with
            entryBeam := true, strayIns := if (s.bin b).strayIns < 65535 then (s.bin b).strayIns + 1 else 65535 }).apart) ∧
  (∀ (s : State) (b : BinId),
      s.Ready →
      (s.bin b).window = false →
      (s.bin b).state = .unconfigured →
      exec (.binEntryBeamBlocked b) s = .next (s.setBin b { s.bin b with entryBeam := true }))

/-- R148 and R149. R148 and R149. A row of a timer that does not run changes nothing (note 18). A row that reports the state already settled has no effect (note 4). -/
def Obligations.SeatingFollowsTheContacts : Prop :=
  (∀ (s : State) (b : BinId) (v w : Bool),
      s.Ready →
      (s.bin b).contacts = contactsOf v w →
      exec (.binDetectContactChange b v w) s = .next s) ∧
  (∀ (s : State) (b : BinId) (v w : Bool),
      s.Ready →
      (s.bin b).contacts ≠ contactsOf v w →
      (s.bin b).seating ≠ .seated →
      exec (.binDetectContactChange b v w) s = .next (s.setBin b { s.bin b with
          contacts := contactsOf v w, debouncing := true })) ∧
  (∀ (s : State) (b : BinId) (v w : Bool),
      s.Ready →
      (s.bin b).contacts ≠ contactsOf v w →
      (s.bin b).seating = .seated →
      ((s.bin b).state = .fault ∨ (s.bin b).state = .absent ∨ (s.bin b).state = .unconfigured ∨ (s.bin b).state = .service) →
      exec (.binDetectContactChange b v w) s = .next (s.setBin b { s.bin b with
          contacts := contactsOf v w, debouncing := true, seating := .unseated, fillHeld := false })) ∧
  (∀ (s : State) (b : BinId) (v w : Bool),
      s.Ready →
      (s.bin b).contacts ≠ contactsOf v w →
      (s.bin b).seating = .seated →
      ((s.bin b).state = .powering ∨ (s.bin b).state = .opened ∨ (s.bin b).state = .compactPending ∨ (s.bin b).state =
        .compacting ∨ (s.bin b).state = .full) →
      s.holders b = 0 →
      ∃ t, exec (.binDetectContactChange b v w) s = .next t ∧
        t.Told (.bin (t.binReport b .removal)) ∧
        t.apart = (s.setBin b { s.bin b with
            contacts := contactsOf v w, debouncing := true, state := .absent, faultCause := none, diverter := false,
            removalFill := some (s.bin b).fill, fillHeld := false, seating := .unseated }).apart) ∧
  (∀ (s : State) (b : BinId) (v w : Bool),
      s.Ready →
      (s.bin b).contacts ≠ contactsOf v w →
      (s.bin b).seating = .seated →
      ((s.bin b).state = .powering ∨ (s.bin b).state = .opened ∨ (s.bin b).state = .compactPending ∨ (s.bin b).state =
        .compacting ∨ (s.bin b).state = .full) →
      s.LanesCoherent →
      s.MergeCoherent →
      ∃ t, exec (.binDetectContactChange b v w) s = .next t ∧
        t.Told (.bin (t.binReport b .removal)) ∧
        (t.bin b).state = .absent ∧
        (t.bin b).removalFill = some (s.bin b).fill ∧
        (t.bin b).diverter = false ∧
        t.holders b = 0) ∧
  (∀ (s : State) (b : BinId),
      s.Ready →
      (s.bin b).debouncing = false →
      exec (.seatingDebounceExpiry b) s = .next s) ∧
  (∀ (s : State) (b : BinId),
      s.Ready →
      (s.bin b).debouncing = true →
      (s.bin b).seating = (s.bin b).contacts.seating →
      exec (.seatingDebounceExpiry b) s = .next (s.setBin b { s.bin b with debouncing := false })) ∧
  (∀ (s : State) (b : BinId),
      s.Ready →
      (s.bin b).debouncing = true →
      (s.bin b).contacts = .both →
      (s.bin b).seating ≠ .seated →
      (s.bin b).state = .absent →
      ∃ t, exec (.seatingDebounceExpiry b) s = .next t ∧
        t.Told (.bin (t.binReport b .state)) ∧
        t.apart = (s.setBin b { s.bin b with
            debouncing := false, seating := .seated, state := .powering, faultCause := none, ready := false, diverter := false,
            fill := if (s.bin b).fillHeld then (s.bin b).fill else 0, fillHeld := false }).apart) ∧
  (∀ (s : State) (b : BinId),
      s.Ready →
      (s.bin b).debouncing = true →
      (s.bin b).contacts = .both →
      (s.bin b).seating ≠ .seated →
      (s.bin b).state ≠ .absent →
      exec (.seatingDebounceExpiry b) s = .next (s.setBin b { s.bin b with debouncing := false, seating := .seated })) ∧
  (∀ (s : State) (b : BinId),
      s.Ready →
      (s.bin b).debouncing = true →
      (s.bin b).contacts = .one →
      (s.bin b).seating ≠ .partially →
      (s.bin b).state ≠ .unconfigured →
      ∃ t, exec (.seatingDebounceExpiry b) s = .next t ∧
        t.Told (.bin (t.binReport b .partially)) ∧
        t.apart = (s.setBin b { s.bin b with debouncing := false, seating := .partially }).apart) ∧
  (∀ (s : State) (b : BinId),
      s.Ready →
      (s.bin b).debouncing = true →
      (s.bin b).contacts = .neither →
      (s.bin b).seating = .partially →
      exec (.seatingDebounceExpiry b) s = .next (s.setBin b { s.bin b with debouncing := false, seating := .unseated }))

/-- R150 and R158. A row of a timer that does not run changes nothing (note 18). A row that reports the state already settled has no effect (note 4). -/
def Obligations.ReadyAndPowerUpDecideTheBin : Prop :=
  (∀ (s : State) (b : BinId) (v : Bool),
      s.Ready →
      (s.bin b).ready = v →
      exec (.binReadyChange b v) s = .next s) ∧
  (∀ (s : State) (b : BinId),
      s.Ready →
      (s.bin b).ready = false →
      (s.bin b).state = .powering →
      ∃ t, exec (.binReadyChange b true) s = .next t ∧
        t.Told (.bin (t.binReport b .state)) ∧
        t.apart = (s.setBin b { s.bin b with
            ready := true, state := if (s.bin b).fill = (s.bin b).capacity then .full else .opened, faultCause := none,
            diverter := (s.bin b).diverter && decide ((s.bin b).fill ≠ (s.bin b).capacity) }).apart) ∧
  (∀ (s : State) (b : BinId),
      s.Ready →
      (s.bin b).ready = false →
      (s.bin b).state ≠ .powering →
      exec (.binReadyChange b true) s = .next (s.setBin b { s.bin b with ready := true })) ∧
  (∀ (s : State) (b : BinId),
      s.Ready →
      (s.bin b).ready = true →
      ((s.bin b).state = .unconfigured ∨ (s.bin b).state = .absent ∨ (s.bin b).state = .powering ∨ (s.bin b).state = .service ∨
        (s.bin b).state = .fault) →
      exec (.binReadyChange b false) s = .next (s.setBin b { s.bin b with ready := false })) ∧
  (∀ (s : State) (b : BinId),
      s.Ready →
      (s.bin b).ready = true →
      ((s.bin b).state = .opened ∨ (s.bin b).state = .compactPending ∨ (s.bin b).state = .compacting ∨ (s.bin b).state =
        .full) →
      s.holders b = 0 →
      ∃ t, exec (.binReadyChange b false) s = .next t ∧
        t.Told (.bin (t.binReport b .state)) ∧
        t.apart = (s.setBin b { s.bin b with
            ready := false, state := .fault, faultCause := some .notReady, diverter := false }).apart) ∧
  (∀ (s : State) (b : BinId),
      s.Ready →
      (s.bin b).ready = true →
      ((s.bin b).state = .opened ∨ (s.bin b).state = .compactPending ∨ (s.bin b).state = .compacting ∨ (s.bin b).state =
        .full) →
      s.LanesCoherent →
      s.MergeCoherent →
      ∃ t, exec (.binReadyChange b false) s = .next t ∧
        t.Told (.bin (t.binReport b .state)) ∧
        (t.bin b).state = .fault ∧
        (t.bin b).faultCause = some .notReady ∧
        (t.bin b).diverter = false ∧
        t.holders b = 0) ∧
  (∀ (s : State) (b : BinId),
      s.Ready →
      (s.bin b).state = .powering →
      ∃ t, exec (.powerUpTimerExpiry b) s = .next t ∧
        t.Told (.bin (t.binReport b .state)) ∧
        t.apart = (s.setBin b { s.bin b with state := .fault, faultCause := some .notReady, diverter := false }).apart) ∧
  (∀ (s : State) (b : BinId),
      s.Ready →
      (s.bin b).state ≠ .powering →
      exec (.powerUpTimerExpiry b) s = .next s)

/-- R156 and R157. A row of a timer that does not run changes nothing (note 18). That the row stands for what an event's end does is the model's (note 2). That a COMPACTOR_DONE outside COMPACTING leaves the done flag of QUERY bin as it is is the model's choice (note 17). -/
def Obligations.CompactionRunsAndEnds : Prop :=
  (∀ (s : State) (b : BinId),
      s.resetAsserted = false →
      s.link.intake = [] →
      (s.bin b).state = .compactPending →
      (s.bin b).reserved = 0 →
      ∃ t, exec (.compactingEntry b) s = .next t ∧
        t.bin b = { s.bin b with state := .compacting, faultCause := none, done := false, diverter := false } ∧
        t.corePart = s.corePart ∧
        (∀ l' : Lane, (t.lane l').keptPart = (s.lane l').keptPart)) ∧
  (∀ (s : State) (b : BinId),
      s.Ready →
      exec (.compactingEntry b) s = .next s) ∧
  (∀ (s : State) (b : BinId),
      s.Ready →
      (s.bin b).state = .compacting →
      ∃ t, exec (.compactorDone b) s = .next t ∧
        t.Told (.bin (t.binReport b .state)) ∧
        t.apart = (s.setBin b { s.bin b with state := .opened, faultCause := none, done := true }).apart) ∧
  (∀ (s : State) (b : BinId),
      s.Ready →
      (s.bin b).state ≠ .compacting →
      exec (.compactorDone b) s = .next s) ∧
  (∀ (s : State) (b : BinId),
      s.Ready →
      (s.bin b).state = .compacting →
      ∃ t, exec (.compactionTimerExpiry b) s = .next t ∧
        t.Told (.bin (t.binReport b .state)) ∧
        t.apart = (s.setBin b { s.bin b with state := .fault, faultCause := some .compactTimeout, diverter := false }).apart) ∧
  (∀ (s : State) (b : BinId),
      s.Ready →
      (s.bin b).state ≠ .compacting →
      exec (.compactionTimerExpiry b) s = .next s)

/-- R192, R96 and R173. That the row stands for what an event's end does is the model's (note 2). -/
def Obligations.HeldOutReportEntersTheFreedPlace : Prop :=
  (∀ (s : State) (f : Frame) (r : Report),
      s.resetAsserted = false →
      ({ s with link := { s.link with heldOut := [] } } : State).settled →
      s.link.transmitter = some f →
      s.link.queue.length < 32 →
      s.link.heldOut = [r] →
      r.treatment ≠ .waiting →
      exec .heldOutReportEnters s = .next ({ s with link := { s.link with queue := s.link.queue ++ [r], heldOut := [] } })) ∧
  (∀ (s : State) (f : Frame) (l : Lane) (seq : Nat) (code : Code),
      s.resetAsserted = false →
      ({ s with link := { s.link with heldOut := [] } } : State).settled →
      s.link.transmitter = some f →
      s.link.queue.length < 32 →
      s.link.heldOut = [.codeQuery l seq code] →
      (s.lane l).query = .waitingRoom seq code →
      exec .heldOutReportEnters s = .next ({ s.setLane l { s.lane l with query := .opened seq code s.corner.queryTimeout } with
          link := { s.link with queue := s.link.queue ++ [.codeQuery l seq code], heldOut := [] } })) ∧
  (∀ (s : State) (f : Frame) (l : Lane) (v : VoucherReport),
      s.resetAsserted = false →
      ({ s with link := { s.link with heldOut := [] } } : State).settled →
      s.link.transmitter = some f →
      s.link.queue.length < 32 →
      s.link.heldOut = [.voucher v] →
      v.lane = l →
      ∃ t, exec .heldOutReportEnters s = .next t ∧
        (t.lane l).session = Session.none (seqNext (s.lane l).session.number) ∧
        t.Told (.voucher (s.voucherReport l)) ∧
        t.OnlyLane l s) ∧
  (∀ (s : State),
      s.Ready →
      exec .heldOutReportEnters s = .next s)

/-- R207 and R208; what survives the release is the model's choice (note 10). That the shutter is shut in RESET whatever the mouth beam was is the model's choice (note 25). -/
def Obligations.ResetRestsTheOutputsAndResetsTheBlocks : Prop :=
  (∀ (s : State),
      ∃ t, exec .resetAsserted s = .next t ∧
        t = { s with resetAsserted := true, link := { s.link with transmitter := none } } ∧
        (∀ l : Lane, t.beltOut l = .off ∧ t.beltPowerOut l = false ∧ t.shutterOut l = false ∧ t.lampOut l = .off ∧
          t.scanOut l = none ∧ t.converterOut l = true ∧ t.gainOut l = .g16) ∧
        t.motorOut = false ∧
        (∀ b : BinId, t.diverterOut b = false ∧ t.binPowerOut b = false ∧ t.compactorOut b = false)) ∧
  (∀ (s : State) (i : Instr),
      s.resetAsserted = true →
      i ≠ .resetAsserted →
      i ≠ .resetReleased →
      exec i s = .next s) ∧
  (∀ (s : State),
      s.resetAsserted = true →
      exec .resetReleased s = .next ({ State.reset with
          bins := s.bins.map (fun u : BinUnit => { BinUnit.reset with contacts := u.contacts }), choices := s.choices,
          draws := s.draws, pending := s.pending })) ∧
  (∀ (s : State),
      s.resetAsserted = false →
      exec .resetReleased s = .next s)

end Slice0Statements
end

