-- ==== Sys2Proof/Laws/State.lean ====
section
/-! SUPPORT. What each update by number leaves and what it writes: one lemma per field per update, and the reads by number. -/

namespace Sys2Proof.Machine

/-! ### setLane -/

@[simp] theorem State.setLane_resetAsserted (s : State) (l : Lane) (u : LaneUnit) : (s.setLane l u).resetAsserted = s.resetAsserted := rfl
@[simp] theorem State.setLane_windows (s : State) (l : Lane) (u : LaneUnit) : (s.setLane l u).windows = s.windows := rfl
@[simp] theorem State.setLane_classes (s : State) (l : Lane) (u : LaneUnit) : (s.setLane l u).classes = s.classes := rfl
@[simp] theorem State.setLane_requests (s : State) (l : Lane) (u : LaneUnit) : (s.setLane l u).requests = s.requests := rfl
@[simp] theorem State.setLane_pocket (s : State) (l : Lane) (u : LaneUnit) : (s.setLane l u).pocket = s.pocket := rfl
@[simp] theorem State.setLane_pocketBeam (s : State) (l : Lane) (u : LaneUnit) : (s.setLane l u).pocketBeam = s.pocketBeam := rfl
@[simp] theorem State.setLane_conveyor (s : State) (l : Lane) (u : LaneUnit) : (s.setLane l u).conveyor = s.conveyor := rfl
@[simp] theorem State.setLane_ring (s : State) (l : Lane) (u : LaneUnit) : (s.setLane l u).ring = s.ring := rfl
@[simp] theorem State.setLane_endFlag (s : State) (l : Lane) (u : LaneUnit) : (s.setLane l u).endFlag = s.endFlag := rfl
@[simp] theorem State.setLane_endBeam (s : State) (l : Lane) (u : LaneUnit) : (s.setLane l u).endBeam = s.endBeam := rfl
@[simp] theorem State.setLane_catchCount (s : State) (l : Lane) (u : LaneUnit) : (s.setLane l u).catchCount = s.catchCount := rfl
@[simp] theorem State.setLane_counters (s : State) (l : Lane) (u : LaneUnit) : (s.setLane l u).counters = s.counters := rfl
@[simp] theorem State.setLane_bins (s : State) (l : Lane) (u : LaneUnit) : (s.setLane l u).bins = s.bins := rfl
@[simp] theorem State.setLane_corner (s : State) (l : Lane) (u : LaneUnit) : (s.setLane l u).corner = s.corner := rfl
@[simp] theorem State.setLane_link (s : State) (l : Lane) (u : LaneUnit) : (s.setLane l u).link = s.link := rfl
@[simp] theorem State.setLane_outbox (s : State) (l : Lane) (u : LaneUnit) : (s.setLane l u).outbox = s.outbox := rfl
@[simp] theorem State.setLane_choices (s : State) (l : Lane) (u : LaneUnit) : (s.setLane l u).choices = s.choices := rfl
@[simp] theorem State.setLane_draws (s : State) (l : Lane) (u : LaneUnit) : (s.setLane l u).draws = s.draws := rfl
@[simp] theorem State.setLane_pending (s : State) (l : Lane) (u : LaneUnit) : (s.setLane l u).pending = s.pending := rfl

/-! ### modLane -/

@[simp] theorem State.modLane_resetAsserted (s : State) (l : Lane) (f : LaneUnit → LaneUnit) : (s.modLane l f).resetAsserted = s.resetAsserted := rfl
@[simp] theorem State.modLane_windows (s : State) (l : Lane) (f : LaneUnit → LaneUnit) : (s.modLane l f).windows = s.windows := rfl
@[simp] theorem State.modLane_classes (s : State) (l : Lane) (f : LaneUnit → LaneUnit) : (s.modLane l f).classes = s.classes := rfl
@[simp] theorem State.modLane_requests (s : State) (l : Lane) (f : LaneUnit → LaneUnit) : (s.modLane l f).requests = s.requests := rfl
@[simp] theorem State.modLane_pocket (s : State) (l : Lane) (f : LaneUnit → LaneUnit) : (s.modLane l f).pocket = s.pocket := rfl
@[simp] theorem State.modLane_pocketBeam (s : State) (l : Lane) (f : LaneUnit → LaneUnit) : (s.modLane l f).pocketBeam = s.pocketBeam := rfl
@[simp] theorem State.modLane_conveyor (s : State) (l : Lane) (f : LaneUnit → LaneUnit) : (s.modLane l f).conveyor = s.conveyor := rfl
@[simp] theorem State.modLane_ring (s : State) (l : Lane) (f : LaneUnit → LaneUnit) : (s.modLane l f).ring = s.ring := rfl
@[simp] theorem State.modLane_endFlag (s : State) (l : Lane) (f : LaneUnit → LaneUnit) : (s.modLane l f).endFlag = s.endFlag := rfl
@[simp] theorem State.modLane_endBeam (s : State) (l : Lane) (f : LaneUnit → LaneUnit) : (s.modLane l f).endBeam = s.endBeam := rfl
@[simp] theorem State.modLane_catchCount (s : State) (l : Lane) (f : LaneUnit → LaneUnit) : (s.modLane l f).catchCount = s.catchCount := rfl
@[simp] theorem State.modLane_counters (s : State) (l : Lane) (f : LaneUnit → LaneUnit) : (s.modLane l f).counters = s.counters := rfl
@[simp] theorem State.modLane_bins (s : State) (l : Lane) (f : LaneUnit → LaneUnit) : (s.modLane l f).bins = s.bins := rfl
@[simp] theorem State.modLane_corner (s : State) (l : Lane) (f : LaneUnit → LaneUnit) : (s.modLane l f).corner = s.corner := rfl
@[simp] theorem State.modLane_link (s : State) (l : Lane) (f : LaneUnit → LaneUnit) : (s.modLane l f).link = s.link := rfl
@[simp] theorem State.modLane_outbox (s : State) (l : Lane) (f : LaneUnit → LaneUnit) : (s.modLane l f).outbox = s.outbox := rfl
@[simp] theorem State.modLane_choices (s : State) (l : Lane) (f : LaneUnit → LaneUnit) : (s.modLane l f).choices = s.choices := rfl
@[simp] theorem State.modLane_draws (s : State) (l : Lane) (f : LaneUnit → LaneUnit) : (s.modLane l f).draws = s.draws := rfl
@[simp] theorem State.modLane_pending (s : State) (l : Lane) (f : LaneUnit → LaneUnit) : (s.modLane l f).pending = s.pending := rfl

/-! ### modRecord -/

@[simp] theorem State.modRecord_resetAsserted (s : State) (l : Lane) (f : ContainerRecord → ContainerRecord) : (s.modRecord l f).resetAsserted = s.resetAsserted := rfl
@[simp] theorem State.modRecord_windows (s : State) (l : Lane) (f : ContainerRecord → ContainerRecord) : (s.modRecord l f).windows = s.windows := rfl
@[simp] theorem State.modRecord_classes (s : State) (l : Lane) (f : ContainerRecord → ContainerRecord) : (s.modRecord l f).classes = s.classes := rfl
@[simp] theorem State.modRecord_requests (s : State) (l : Lane) (f : ContainerRecord → ContainerRecord) : (s.modRecord l f).requests = s.requests := rfl
@[simp] theorem State.modRecord_pocket (s : State) (l : Lane) (f : ContainerRecord → ContainerRecord) : (s.modRecord l f).pocket = s.pocket := rfl
@[simp] theorem State.modRecord_pocketBeam (s : State) (l : Lane) (f : ContainerRecord → ContainerRecord) : (s.modRecord l f).pocketBeam = s.pocketBeam := rfl
@[simp] theorem State.modRecord_conveyor (s : State) (l : Lane) (f : ContainerRecord → ContainerRecord) : (s.modRecord l f).conveyor = s.conveyor := rfl
@[simp] theorem State.modRecord_ring (s : State) (l : Lane) (f : ContainerRecord → ContainerRecord) : (s.modRecord l f).ring = s.ring := rfl
@[simp] theorem State.modRecord_endFlag (s : State) (l : Lane) (f : ContainerRecord → ContainerRecord) : (s.modRecord l f).endFlag = s.endFlag := rfl
@[simp] theorem State.modRecord_endBeam (s : State) (l : Lane) (f : ContainerRecord → ContainerRecord) : (s.modRecord l f).endBeam = s.endBeam := rfl
@[simp] theorem State.modRecord_catchCount (s : State) (l : Lane) (f : ContainerRecord → ContainerRecord) : (s.modRecord l f).catchCount = s.catchCount := rfl
@[simp] theorem State.modRecord_counters (s : State) (l : Lane) (f : ContainerRecord → ContainerRecord) : (s.modRecord l f).counters = s.counters := rfl
@[simp] theorem State.modRecord_bins (s : State) (l : Lane) (f : ContainerRecord → ContainerRecord) : (s.modRecord l f).bins = s.bins := rfl
@[simp] theorem State.modRecord_corner (s : State) (l : Lane) (f : ContainerRecord → ContainerRecord) : (s.modRecord l f).corner = s.corner := rfl
@[simp] theorem State.modRecord_link (s : State) (l : Lane) (f : ContainerRecord → ContainerRecord) : (s.modRecord l f).link = s.link := rfl
@[simp] theorem State.modRecord_outbox (s : State) (l : Lane) (f : ContainerRecord → ContainerRecord) : (s.modRecord l f).outbox = s.outbox := rfl
@[simp] theorem State.modRecord_choices (s : State) (l : Lane) (f : ContainerRecord → ContainerRecord) : (s.modRecord l f).choices = s.choices := rfl
@[simp] theorem State.modRecord_draws (s : State) (l : Lane) (f : ContainerRecord → ContainerRecord) : (s.modRecord l f).draws = s.draws := rfl
@[simp] theorem State.modRecord_pending (s : State) (l : Lane) (f : ContainerRecord → ContainerRecord) : (s.modRecord l f).pending = s.pending := rfl

/-! ### setBin -/

@[simp] theorem State.setBin_resetAsserted (s : State) (b : BinId) (u : BinUnit) : (s.setBin b u).resetAsserted = s.resetAsserted := rfl
@[simp] theorem State.setBin_lanes (s : State) (b : BinId) (u : BinUnit) : (s.setBin b u).lanes = s.lanes := rfl
@[simp] theorem State.setBin_windows (s : State) (b : BinId) (u : BinUnit) : (s.setBin b u).windows = s.windows := rfl
@[simp] theorem State.setBin_classes (s : State) (b : BinId) (u : BinUnit) : (s.setBin b u).classes = s.classes := rfl
@[simp] theorem State.setBin_requests (s : State) (b : BinId) (u : BinUnit) : (s.setBin b u).requests = s.requests := rfl
@[simp] theorem State.setBin_pocket (s : State) (b : BinId) (u : BinUnit) : (s.setBin b u).pocket = s.pocket := rfl
@[simp] theorem State.setBin_pocketBeam (s : State) (b : BinId) (u : BinUnit) : (s.setBin b u).pocketBeam = s.pocketBeam := rfl
@[simp] theorem State.setBin_conveyor (s : State) (b : BinId) (u : BinUnit) : (s.setBin b u).conveyor = s.conveyor := rfl
@[simp] theorem State.setBin_ring (s : State) (b : BinId) (u : BinUnit) : (s.setBin b u).ring = s.ring := rfl
@[simp] theorem State.setBin_endFlag (s : State) (b : BinId) (u : BinUnit) : (s.setBin b u).endFlag = s.endFlag := rfl
@[simp] theorem State.setBin_endBeam (s : State) (b : BinId) (u : BinUnit) : (s.setBin b u).endBeam = s.endBeam := rfl
@[simp] theorem State.setBin_catchCount (s : State) (b : BinId) (u : BinUnit) : (s.setBin b u).catchCount = s.catchCount := rfl
@[simp] theorem State.setBin_counters (s : State) (b : BinId) (u : BinUnit) : (s.setBin b u).counters = s.counters := rfl
@[simp] theorem State.setBin_corner (s : State) (b : BinId) (u : BinUnit) : (s.setBin b u).corner = s.corner := rfl
@[simp] theorem State.setBin_link (s : State) (b : BinId) (u : BinUnit) : (s.setBin b u).link = s.link := rfl
@[simp] theorem State.setBin_outbox (s : State) (b : BinId) (u : BinUnit) : (s.setBin b u).outbox = s.outbox := rfl
@[simp] theorem State.setBin_choices (s : State) (b : BinId) (u : BinUnit) : (s.setBin b u).choices = s.choices := rfl
@[simp] theorem State.setBin_draws (s : State) (b : BinId) (u : BinUnit) : (s.setBin b u).draws = s.draws := rfl
@[simp] theorem State.setBin_pending (s : State) (b : BinId) (u : BinUnit) : (s.setBin b u).pending = s.pending := rfl

/-! ### modBin -/

@[simp] theorem State.modBin_resetAsserted (s : State) (b : BinId) (f : BinUnit → BinUnit) : (s.modBin b f).resetAsserted = s.resetAsserted := rfl
@[simp] theorem State.modBin_lanes (s : State) (b : BinId) (f : BinUnit → BinUnit) : (s.modBin b f).lanes = s.lanes := rfl
@[simp] theorem State.modBin_windows (s : State) (b : BinId) (f : BinUnit → BinUnit) : (s.modBin b f).windows = s.windows := rfl
@[simp] theorem State.modBin_classes (s : State) (b : BinId) (f : BinUnit → BinUnit) : (s.modBin b f).classes = s.classes := rfl
@[simp] theorem State.modBin_requests (s : State) (b : BinId) (f : BinUnit → BinUnit) : (s.modBin b f).requests = s.requests := rfl
@[simp] theorem State.modBin_pocket (s : State) (b : BinId) (f : BinUnit → BinUnit) : (s.modBin b f).pocket = s.pocket := rfl
@[simp] theorem State.modBin_pocketBeam (s : State) (b : BinId) (f : BinUnit → BinUnit) : (s.modBin b f).pocketBeam = s.pocketBeam := rfl
@[simp] theorem State.modBin_conveyor (s : State) (b : BinId) (f : BinUnit → BinUnit) : (s.modBin b f).conveyor = s.conveyor := rfl
@[simp] theorem State.modBin_ring (s : State) (b : BinId) (f : BinUnit → BinUnit) : (s.modBin b f).ring = s.ring := rfl
@[simp] theorem State.modBin_endFlag (s : State) (b : BinId) (f : BinUnit → BinUnit) : (s.modBin b f).endFlag = s.endFlag := rfl
@[simp] theorem State.modBin_endBeam (s : State) (b : BinId) (f : BinUnit → BinUnit) : (s.modBin b f).endBeam = s.endBeam := rfl
@[simp] theorem State.modBin_catchCount (s : State) (b : BinId) (f : BinUnit → BinUnit) : (s.modBin b f).catchCount = s.catchCount := rfl
@[simp] theorem State.modBin_counters (s : State) (b : BinId) (f : BinUnit → BinUnit) : (s.modBin b f).counters = s.counters := rfl
@[simp] theorem State.modBin_corner (s : State) (b : BinId) (f : BinUnit → BinUnit) : (s.modBin b f).corner = s.corner := rfl
@[simp] theorem State.modBin_link (s : State) (b : BinId) (f : BinUnit → BinUnit) : (s.modBin b f).link = s.link := rfl
@[simp] theorem State.modBin_outbox (s : State) (b : BinId) (f : BinUnit → BinUnit) : (s.modBin b f).outbox = s.outbox := rfl
@[simp] theorem State.modBin_choices (s : State) (b : BinId) (f : BinUnit → BinUnit) : (s.modBin b f).choices = s.choices := rfl
@[simp] theorem State.modBin_draws (s : State) (b : BinId) (f : BinUnit → BinUnit) : (s.modBin b f).draws = s.draws := rfl
@[simp] theorem State.modBin_pending (s : State) (b : BinId) (f : BinUnit → BinUnit) : (s.modBin b f).pending = s.pending := rfl

/-! ### setToken -/

@[simp] theorem State.setToken_resetAsserted (s : State) (p : Position) (t : Option Token) : (s.setToken p t).resetAsserted = s.resetAsserted := rfl
@[simp] theorem State.setToken_lanes (s : State) (p : Position) (t : Option Token) : (s.setToken p t).lanes = s.lanes := rfl
@[simp] theorem State.setToken_windows (s : State) (p : Position) (t : Option Token) : (s.setToken p t).windows = s.windows := rfl
@[simp] theorem State.setToken_classes (s : State) (p : Position) (t : Option Token) : (s.setToken p t).classes = s.classes := rfl
@[simp] theorem State.setToken_requests (s : State) (p : Position) (t : Option Token) : (s.setToken p t).requests = s.requests := rfl
@[simp] theorem State.setToken_pocket (s : State) (p : Position) (t : Option Token) : (s.setToken p t).pocket = s.pocket := rfl
@[simp] theorem State.setToken_pocketBeam (s : State) (p : Position) (t : Option Token) : (s.setToken p t).pocketBeam = s.pocketBeam := rfl
@[simp] theorem State.setToken_conveyor (s : State) (p : Position) (t : Option Token) : (s.setToken p t).conveyor = s.conveyor := rfl
@[simp] theorem State.setToken_endFlag (s : State) (p : Position) (t : Option Token) : (s.setToken p t).endFlag = s.endFlag := rfl
@[simp] theorem State.setToken_endBeam (s : State) (p : Position) (t : Option Token) : (s.setToken p t).endBeam = s.endBeam := rfl
@[simp] theorem State.setToken_catchCount (s : State) (p : Position) (t : Option Token) : (s.setToken p t).catchCount = s.catchCount := rfl
@[simp] theorem State.setToken_counters (s : State) (p : Position) (t : Option Token) : (s.setToken p t).counters = s.counters := rfl
@[simp] theorem State.setToken_bins (s : State) (p : Position) (t : Option Token) : (s.setToken p t).bins = s.bins := rfl
@[simp] theorem State.setToken_corner (s : State) (p : Position) (t : Option Token) : (s.setToken p t).corner = s.corner := rfl
@[simp] theorem State.setToken_link (s : State) (p : Position) (t : Option Token) : (s.setToken p t).link = s.link := rfl
@[simp] theorem State.setToken_outbox (s : State) (p : Position) (t : Option Token) : (s.setToken p t).outbox = s.outbox := rfl
@[simp] theorem State.setToken_choices (s : State) (p : Position) (t : Option Token) : (s.setToken p t).choices = s.choices := rfl
@[simp] theorem State.setToken_draws (s : State) (p : Position) (t : Option Token) : (s.setToken p t).draws = s.draws := rfl
@[simp] theorem State.setToken_pending (s : State) (p : Position) (t : Option Token) : (s.setToken p t).pending = s.pending := rfl

/-! ### Reads by number -/

@[simp] theorem State.setLane_bin (s : State) (l : Lane) (u : LaneUnit) (i : BinId) : (s.setLane l u).bin i = s.bin i := rfl
@[simp] theorem State.setLane_tokenAt (s : State) (l : Lane) (u : LaneUnit) (i : Position) : (s.setLane l u).tokenAt i = s.tokenAt i := rfl
@[simp] theorem State.setLane_classAt (s : State) (l : Lane) (u : LaneUnit) (i : ClassId) : (s.setLane l u).classAt i = s.classAt i := rfl
@[simp] theorem State.modLane_bin (s : State) (l : Lane) (f : LaneUnit → LaneUnit) (i : BinId) : (s.modLane l f).bin i = s.bin i := rfl
@[simp] theorem State.modLane_tokenAt (s : State) (l : Lane) (f : LaneUnit → LaneUnit) (i : Position) : (s.modLane l f).tokenAt i = s.tokenAt i := rfl
@[simp] theorem State.modLane_classAt (s : State) (l : Lane) (f : LaneUnit → LaneUnit) (i : ClassId) : (s.modLane l f).classAt i = s.classAt i := rfl
@[simp] theorem State.modRecord_bin (s : State) (l : Lane) (f : ContainerRecord → ContainerRecord) (i : BinId) : (s.modRecord l f).bin i = s.bin i := rfl
@[simp] theorem State.modRecord_tokenAt (s : State) (l : Lane) (f : ContainerRecord → ContainerRecord) (i : Position) : (s.modRecord l f).tokenAt i = s.tokenAt i := rfl
@[simp] theorem State.modRecord_classAt (s : State) (l : Lane) (f : ContainerRecord → ContainerRecord) (i : ClassId) : (s.modRecord l f).classAt i = s.classAt i := rfl
@[simp] theorem State.setBin_lane (s : State) (b : BinId) (u : BinUnit) (i : Lane) : (s.setBin b u).lane i = s.lane i := rfl
@[simp] theorem State.setBin_tokenAt (s : State) (b : BinId) (u : BinUnit) (i : Position) : (s.setBin b u).tokenAt i = s.tokenAt i := rfl
@[simp] theorem State.setBin_classAt (s : State) (b : BinId) (u : BinUnit) (i : ClassId) : (s.setBin b u).classAt i = s.classAt i := rfl
@[simp] theorem State.modBin_lane (s : State) (b : BinId) (f : BinUnit → BinUnit) (i : Lane) : (s.modBin b f).lane i = s.lane i := rfl
@[simp] theorem State.modBin_tokenAt (s : State) (b : BinId) (f : BinUnit → BinUnit) (i : Position) : (s.modBin b f).tokenAt i = s.tokenAt i := rfl
@[simp] theorem State.modBin_classAt (s : State) (b : BinId) (f : BinUnit → BinUnit) (i : ClassId) : (s.modBin b f).classAt i = s.classAt i := rfl
@[simp] theorem State.setToken_lane (s : State) (p : Position) (t : Option Token) (i : Lane) : (s.setToken p t).lane i = s.lane i := rfl
@[simp] theorem State.setToken_bin (s : State) (p : Position) (t : Option Token) (i : BinId) : (s.setToken p t).bin i = s.bin i := rfl
@[simp] theorem State.setToken_classAt (s : State) (p : Position) (t : Option Token) (i : ClassId) : (s.setToken p t).classAt i = s.classAt i := rfl

theorem State.setLane_lane (s : State) (l i : Lane) (u : LaneUnit) :
    (s.setLane l u).lane i = if l = i then u else s.lane i := by
  simp only [State.lane, State.setLane, Fin.getElem_fin, Vector.getElem_set, Fin.ext_iff]

theorem State.setBin_bin (s : State) (b i : BinId) (u : BinUnit) :
    (s.setBin b u).bin i = if b = i then u else s.bin i := by
  simp only [State.bin, State.setBin, Fin.getElem_fin, Vector.getElem_set, Fin.ext_iff]

theorem State.setToken_tokenAt (s : State) (p i : Position) (t : Option Token) :
    (s.setToken p t).tokenAt i = if p = i then t else s.tokenAt i := by
  simp only [State.tokenAt, State.setToken, Fin.getElem_fin, Vector.getElem_set, Fin.ext_iff]

theorem State.modLane_lane (s : State) (l i : Lane) (f : LaneUnit → LaneUnit) :
    (s.modLane l f).lane i = if l = i then f (s.lane l) else s.lane i := State.setLane_lane s l i _

theorem State.modBin_bin (s : State) (b i : BinId) (f : BinUnit → BinUnit) :
    (s.modBin b f).bin i = if b = i then f (s.bin b) else s.bin i := State.setBin_bin s b i _

@[simp] theorem State.setLane_lane_self (s : State) (l : Lane) (u : LaneUnit) : (s.setLane l u).lane l = u := by
  simp [State.setLane_lane]

@[simp] theorem State.modLane_lane_self (s : State) (l : Lane) (f : LaneUnit → LaneUnit) :
    (s.modLane l f).lane l = f (s.lane l) := by simp [State.modLane_lane]

theorem State.modLane_lane_of_ne (s : State) {l i : Lane} (f : LaneUnit → LaneUnit) (h : l ≠ i) :
    (s.modLane l f).lane i = s.lane i := by simp [State.modLane_lane, h]

@[simp] theorem State.setBin_bin_self (s : State) (b : BinId) (u : BinUnit) : (s.setBin b u).bin b = u := by
  simp [State.setBin_bin]

@[simp] theorem State.modBin_bin_self (s : State) (b : BinId) (f : BinUnit → BinUnit) :
    (s.modBin b f).bin b = f (s.bin b) := by simp [State.modBin_bin]

theorem State.modBin_bin_of_ne (s : State) {b i : BinId} (f : BinUnit → BinUnit) (h : b ≠ i) :
    (s.modBin b f).bin i = s.bin i := by simp [State.modBin_bin, h]

@[simp] theorem State.setToken_tokenAt_self (s : State) (p : Position) (t : Option Token) :
    (s.setToken p t).tokenAt p = t := by simp [State.setToken_tokenAt]

theorem State.modRecord_lane (s : State) (l i : Lane) (f : ContainerRecord → ContainerRecord) :
    (s.modRecord l f).lane i = if l = i then { s.lane l with record := (s.lane l).record.map f } else s.lane i :=
  State.modLane_lane s l i _

end Sys2Proof.Machine
end

