-- ==== Sys2Proof/Laws/Growth.lean ====
section
/-! SUPPORT. How much an operation adds to the reports made and held out, the intake buffer and the transmitter: the measure by which
an event comes to rest (Laws/Rest.lean). -/

namespace Sys2Proof.Machine

/-- The weight of a report made: a voucher's owner may still act twice. -/
def Made.weight (m : Made) : Nat :=
  match m with
  | .voucher _ => 6
  | .whole (.voucher _) => 6
  | _ => 2

/-- The weight of a held-out report: a voucher's owner may still act. -/
def Report.weight (r : Report) : Nat :=
  match r with
  | .voucher _ => 3
  | _ => 1

/-- The weight of the reports made and not yet offered. -/
def outPot (s : State) : Nat := (s.outbox.map Made.weight).sum

/-- The weight of the held-out reports. -/
def heldPot (s : State) : Nat := (s.link.heldOut.map Report.weight).sum

/-- From s to t at most k reports without a waiting owner were made, none was held out, no frame joined, and the transmitter stands. -/
structure Grows (k : Nat) (s t : State) : Prop where
  out : outPot t ≤ outPot s + 2 * k
  held : heldPot t ≤ heldPot s
  intake : t.link.intake.length ≤ s.link.intake.length
  tx : t.link.transmitter = s.link.transmitter

theorem Grows.refl (s : State) : Grows 0 s s := ⟨by omega, Nat.le_refl _, Nat.le_refl _, rfl⟩

theorem Grows.trans {j k : Nat} {s t u : State} (h : Grows j s t) (h' : Grows k t u) : Grows (j + k) s u :=
  ⟨by have := h.out; have := h'.out; omega, Nat.le_trans h'.held h.held, Nat.le_trans h'.intake h.intake, h'.tx.trans h.tx⟩

theorem Grows.mono {j k : Nat} {s t : State} (h : Grows j s t) (hk : j ≤ k) : Grows k s t :=
  ⟨by have := h.out; omega, h.held, h.intake, h.tx⟩

theorem Grows.of_eq {s t : State} (ho : t.outbox = s.outbox) (hl : t.link = s.link) : Grows 0 s t :=
  ⟨by simp [outPot, ho], by simp [heldPot, hl], by simp [hl], by simp [hl]⟩

theorem Grows.after {k : Nat} {s t u : State} (h : Grows 0 s t) (h' : Grows k t u) : Grows k s u :=
  (h.trans h').mono (by omega)

theorem Grows.then {k : Nat} {s t u : State} (h : Grows k s t) (h' : Grows 0 t u) : Grows k s u := h.trans h'

theorem Grows.foldl {α : Type} {k : Nat} {f : State → α → State} (h : ∀ s a, Grows k s (f s a)) :
    ∀ (l : List α) (s : State), Grows (k * l.length) s (l.foldl f s)
  | [], s => Grows.refl s
  | a :: l, s => ((h s a).trans (Grows.foldl h l (f s a))).mono (by simp [Nat.mul_succ]; omega)

theorem Grows.foldl0 {α : Type} {f : State → α → State} (h : ∀ s a, Grows 0 s (f s a)) (l : List α) (s : State) :
    Grows 0 s (l.foldl f s) := (Grows.foldl h l s).mono (by omega)

/-! ### Updates -/

theorem grows_modLane (s : State) (l : Lane) (f : LaneUnit → LaneUnit) : Grows 0 s (s.modLane l f) := Grows.of_eq rfl rfl

theorem grows_modRecord (s : State) (l : Lane) (f : ContainerRecord → ContainerRecord) : Grows 0 s (s.modRecord l f) :=
  Grows.of_eq rfl rfl

theorem grows_modBin (s : State) (b : BinId) (f : BinUnit → BinUnit) : Grows 0 s (s.modBin b f) := Grows.of_eq rfl rfl

theorem grows_setToken (s : State) (p : Position) (t : Option Token) : Grows 0 s (s.setToken p t) := Grows.of_eq rfl rfl

theorem grows_draw (s : State) : Grows 0 s s.draw.2 := by
  unfold State.draw
  split <;> exact Grows.of_eq rfl rfl

/-! ### Reports -/

theorem outPot_append (s : State) (m : Made) (h : m.weight = 2) :
    ((s.outbox ++ [m]).map Made.weight).sum = outPot s + 2 := by simp [outPot, h]

theorem grows_make (s : State) (m : Made) (h : m.weight = 2) : Grows 1 s (s.make m) := by
  unfold State.make
  split
  · exact (Grows.refl s).mono (by omega)
  · exact ⟨by simp [outPot, h], Nat.le_refl _, Nat.le_refl _, rfl⟩

theorem grows_makeWhole (s : State) (r : Report) (h : (Made.whole r).weight = 2) : Grows 1 s (s.makeWhole r) :=
  ⟨by simp [State.makeWhole, outPot, h], Nat.le_refl _, Nat.le_refl _, rfl⟩

theorem grows_noteLane (s : State) (l : Lane) : Grows 1 s (s.noteLane l) := grows_make s _ rfl

theorem grows_noteConveyor (s : State) : Grows 1 s s.noteConveyor := grows_make s _ rfl

theorem weight_renameBin (b : BinId) (e : BinEvent) (l : List Made) :
    ((renameBinEvent b e l).map Made.weight).sum = (l.map Made.weight).sum := by
  induction l with
  | nil => rfl
  | cons m l ih =>
    simp only [renameBinEvent, List.map_cons, List.sum_cons] at ih ⊢
    rw [ih]
    congr 1
    cases m <;> try rfl
    dsimp only
    split <;> rfl

theorem weight_renameLink (e : LinkEvent) (l : List Made) :
    ((renameLinkEvent e l).map Made.weight).sum = (l.map Made.weight).sum := by
  induction l with
  | nil => rfl
  | cons m l ih =>
    simp only [renameLinkEvent, List.map_cons, List.sum_cons] at ih ⊢
    rw [ih]
    congr 1
    cases m <;> rfl

theorem draw_outbox (s : State) : s.draw.2.outbox = s.outbox := by unfold State.draw; split <;> rfl

theorem draw_link (s : State) : s.draw.2.link = s.link := by unfold State.draw; split <;> rfl

theorem grows_noteBin (s : State) (b : BinId) (e : BinEvent) : Grows 1 s (s.noteBin b e) := by
  unfold State.noteBin
  split
  · exact ⟨by simp [outPot, Made.weight], Nat.le_refl _, Nat.le_refl _, rfl⟩
  · split
    · exact (Grows.refl s).mono (by omega)
    · split
      · exact ⟨by simp only [outPot, weight_renameBin]; omega, Nat.le_refl _, Nat.le_refl _, rfl⟩
      · exact ⟨by simp only [outPot, weight_renameBin]; omega, by simp [heldPot, draw_link], by simp [draw_link],
          by simp [draw_link]⟩

theorem grows_noteLink (s : State) (e : LinkEvent) : Grows 1 s (s.noteLink e) := by
  unfold State.noteLink
  split
  · exact ⟨by simp [outPot, Made.weight], Nat.le_refl _, Nat.le_refl _, rfl⟩
  · split
    · exact (Grows.refl s).mono (by omega)
    · split
      · exact ⟨by simp only [outPot, weight_renameLink]; omega, Nat.le_refl _, Nat.le_refl _, rfl⟩
      · exact ⟨by simp only [outPot, weight_renameLink]; omega, by simp [heldPot, draw_link], by simp [draw_link],
          by simp [draw_link]⟩

theorem grows_setHolds (s : State) (l : Lane) (h : HoldSet) : Grows 1 s (s.setHolds l h) := by
  unfold State.setHolds
  split
  · exact (Grows.refl s).mono (by omega)
  · exact (grows_modLane s l _).after (grows_noteLane _ l)

theorem grows_setLaneState (s : State) (l : Lane) (t : LaneState) : Grows 1 s (s.setLaneState l t) := by
  unfold State.setLaneState
  split
  · exact (Grows.refl s).mono (by omega)
  · exact (grows_modLane s l _).after (grows_noteLane _ l)

/-! ### Reservations and tokens -/

theorem grows_reserve (s : State) (b : BinId) : Grows 0 s (s.reserve b) := grows_modBin s b _

theorem grows_release (s : State) (d : Option BinId) : Grows 0 s (s.release d) := by
  cases d with
  | none => exact Grows.refl s
  | some b => exact Grows.of_eq rfl rfl

theorem grows_strayTurn (s : State) (p : Position) (c : StrayCause) : Grows 1 s (s.strayTurn p c) := by
  unfold State.strayTurn
  split
  · split
    · exact ((grows_setToken s p _).after (grows_release _ _)).after (grows_makeWhole _ _ rfl)
    · exact (Grows.refl s).mono (by omega)
  · exact (Grows.refl s).mono (by omega)

theorem grows_expireWindow (s : State) (b : BinId) : Grows 1 s (s.expireWindow b) := by
  unfold State.expireWindow
  split
  · exact (grows_modBin s b _).after (grows_strayTurn _ _ _)
  · exact (Grows.refl s).mono (by omega)

theorem grows_cutWindow (s : State) (b : BinId) (p : Position) : Grows 0 s (s.cutWindow b p) := by
  unfold State.cutWindow
  split
  · exact grows_modBin s b _
  · exact Grows.refl s

theorem grows_rerouteToken (b : BinId) (s : State) (p : Position) : Grows 1 s (s.rerouteToken b p) := by
  unfold State.rerouteToken
  split
  · split
    · dsimp only
      split
      · exact (((grows_cutWindow s b p).after (grows_release _ _)).after ((grows_reserve _ _).after (grows_setToken _ _ _))).mono
          (by omega)
      · exact (grows_cutWindow s b p).after (grows_strayTurn _ _ _)
    · exact (Grows.refl s).mono (by omega)
  · exact (Grows.refl s).mono (by omega)

theorem grows_rerouteTokens (s : State) (b : BinId) : Grows 32 s (s.rerouteTokens b) :=
  (Grows.foldl (fun s p => grows_rerouteToken b s p) allPositions.reverse s).mono (by decide)

theorem grows_rechoose (s : State) (r : ContainerRecord) : Grows 0 s (s.rechoose r).2 := by
  unfold State.rechoose
  dsimp only
  split
  · exact (grows_release s _).after (grows_reserve _ _)
  · exact grows_release s _

theorem grows_rechoosePocket (s : State) (b : BinId) : Grows 0 s (s.rechoosePocket b) := by
  unfold State.rechoosePocket
  split
  · split
    · exact (grows_rechoose s _).after (Grows.of_eq rfl rfl)
    · exact Grows.refl s
  · exact Grows.refl s

theorem grows_rechooseLane (b : BinId) (s : State) (l : Lane) : Grows 0 s (s.rechooseLane b l) := by
  unfold State.rechooseLane
  split
  · split
    · exact (grows_rechoose s _).after (grows_modLane _ l _)
    · exact Grows.refl s
  · exact Grows.refl s

theorem grows_moveReservations (s : State) (b : BinId) : Grows 32 s (s.moveReservations b) := by
  have hf : ∀ (l : List Lane) (s : State), Grows 0 s (l.foldl (State.rechooseLane b) s) := fun l s =>
    Grows.foldl0 (fun s l => grows_rechooseLane b s l) l s
  exact ((((grows_rerouteTokens s b).then (grows_rechoosePocket _ b)).then (hf _ _)).then (hf _ _)).then (hf _ _)

/-! ### Bins -/

theorem grows_binEnters (s : State) (b : BinId) (t : BinState) (c : Option BinFault) (e : BinEvent) :
    Grows 1 s (s.binEnters b t c e) := by
  unfold State.binEnters
  dsimp only
  split
  · exact (grows_modBin s b _).after (grows_noteBin _ b e)
  · exact (grows_modBin s b _).mono (by omega)

theorem grows_binTo (s : State) (b : BinId) (t : BinState) : Grows 1 s (s.binTo b t) := grows_binEnters s b t _ _

theorem grows_serviceBegins (s : State) (b : BinId) : Grows 33 s (s.serviceBegins b) :=
  ((grows_binTo s b _).trans (grows_moveReservations _ b)).mono (by omega)

theorem grows_serviceEnds (s : State) (b : BinId) (fill : Nat) : Grows 1 s (s.serviceEnds b fill) := by
  unfold State.serviceEnds
  dsimp only
  split
  · exact (grows_modBin s b _).after (grows_binTo _ b _)
  · exact ((grows_modBin s b _).after (grows_modBin _ b _)).after (grows_binTo _ b _)

theorem grows_clearBin (s : State) (b : BinId) : Grows 1 s (s.clearBin b) := by
  unfold State.clearBin
  split
  · split <;> exact grows_binTo s b _
  · exact (grows_modBin s b _).after (grows_binTo _ b _)

theorem grows_writeBin (s : State) (b : BinId) (p : Position) (m : MaterialSet) (c n i f : Nat) :
    Grows 2 s (s.writeBin b p m c n i f) := by
  unfold State.writeBin
  dsimp only
  have h : Grows 1 s ((s.modBin b (fun u =>
      { u with position := p, materials := m, capacity := c, nearFull := n, interval := i, fill := f, strayIns := 0 })).noteBin b
        .config) := (grows_modBin s b _).after (grows_noteBin _ b _)
  split
  · split
    · exact h.trans (grows_binTo _ b _)
    · exact h.trans ((grows_modBin _ b _).after (grows_binTo _ b _))
  · exact (h.then (grows_modBin _ b _)).mono (by omega)
  · exact h.mono (by omega)

/-! ### Lanes -/

theorem grows_enterReady (s : State) (l : Lane) : Grows 1 s (s.enterReady l) :=
  (grows_modLane s l _).after (grows_setLaneState _ l _)

theorem grows_wake (s : State) (l : Lane) : Grows 1 s (s.wake l) := by
  unfold State.wake
  split
  · exact grows_enterReady s l
  · exact grows_enterReady s l
  · exact (Grows.refl s).mono (by omega)

theorem grows_enterClosed (s : State) (l : Lane) : Grows 1 s (s.enterClosed l) :=
  (grows_modLane s l _).after (grows_setLaneState _ l _)

theorem grows_openUp (s : State) (l : Lane) : Grows 1 s (s.openUp l) := (grows_modLane s l _).after (grows_setLaneState _ l _)

theorem grows_admit (s : State) (l : Lane) : Grows 1 s (s.enterAdmit l) := (grows_modLane s l _).after (grows_setLaneState _ l _)

theorem grows_dropRecord (s : State) (l : Lane) : Grows 0 s (s.dropRecord l) := (grows_release s _).after (grows_modLane _ l _)

theorem grows_enterReturn (s : State) (l : Lane) : Grows 1 s (s.enterReturn l) :=
  (((grows_release s _).after (grows_modRecord _ l _)).after (grows_modLane _ l _)).after (grows_setLaneState _ l _)

theorem grows_enterHold (s : State) (l : Lane) : Grows 1 s (s.enterHold l) :=
  ((grows_modLane s l _).after (grows_setLaneState _ l _)).then (Grows.of_eq rfl rfl)

theorem sum_filter_le {α : Type} (w : α → Nat) (p : α → Bool) (l : List α) : ((l.filter p).map w).sum ≤ (l.map w).sum := by
  induction l with
  | nil => simp
  | cons a l ih =>
    by_cases h : p a = true
    · simp [h]; omega
    · simp [h]; omega

theorem grows_endQuery (s : State) (l : Lane) : Grows 0 s (s.endQuery l) :=
  ⟨sum_filter_le Made.weight _ s.outbox, sum_filter_le Report.weight _ s.link.heldOut, Nat.le_refl _, rfl⟩

theorem grows_withdrawVoucher (s : State) (l : Lane) : Grows 0 s (s.withdrawVoucher l) :=
  ⟨sum_filter_le Made.weight _ s.outbox, sum_filter_le Report.weight _ s.link.heldOut, Nat.le_refl _, rfl⟩

theorem grows_withdrawWaiting (s : State) (l : Lane) : Grows 0 s (s.withdrawWaiting l) := by
  unfold State.withdrawWaiting
  split
  · exact grows_withdrawVoucher s l
  · exact Grows.refl s

theorem grows_dropRequest (s : State) (l : Lane) : Grows 0 s (s.dropRequest l) := Grows.of_eq rfl rfl

theorem grows_tellReject (s : State) (l : Lane) : Grows 0 s (s.tellReject l) := grows_modLane s l _

theorem grows_rejectRecord (s : State) (l : Lane) (r : Reason) (c : Option ClassId) : Grows 2 s (s.rejectRecord l r c) := by
  unfold State.rejectRecord
  split
  · exact ((((grows_modRecord s l _).after (grows_tellReject _ l)).after (grows_makeWhole _ _ rfl)).trans (grows_enterReturn _ l))
  · exact (Grows.refl s).mono (by omega)

theorem grows_closeRequest (s : State) (l : Lane) (c : CloseCause) : Grows 1 s (s.closeRequest l c) := by
  unfold State.closeRequest
  split
  · exact (grows_modLane s l _).after (grows_setHolds _ l _)
  · exact (Grows.refl s).mono (by omega)
  · exact (Grows.refl s).mono (by omega)

theorem grows_setClosePending (s : State) (l : Lane) : Grows 2 s (s.setClosePending l) := by
  unfold State.setClosePending
  dsimp only
  split
  · exact (Grows.refl s).mono (by omega)
  · exact ((grows_modLane s l _).after (grows_noteLane _ l)).trans (grows_closeRequest _ l _)

theorem grows_acceptRecord (s : State) (l : Lane) (c : ClassId) (b : BinId) : Grows 2 s (s.acceptRecord l c b) := by
  unfold State.acceptRecord
  split
  · exact ((((grows_reserve s b).after (grows_modLane _ l _)).after (grows_withdrawWaiting _ l)).after
      (grows_makeWhole _ _ rfl)).trans (grows_enterHold _ l)
  · exact (Grows.refl s).mono (by omega)

theorem grows_judgeClass (s : State) (l : Lane) (c : ClassId) : Grows 2 s (s.judgeClass l c) := by
  unfold State.judgeClass
  split
  · split
    · exact grows_rejectRecord s l _ _
    · split
      · exact grows_acceptRecord s l c _
      · exact grows_rejectRecord s l _ _
  · exact (Grows.refl s).mono (by omega)

theorem grows_answerQuery (s : State) (l : Lane) (a : Option ClassId) : Grows 2 s (s.answerQuery l a) := by
  unfold State.answerQuery
  dsimp only
  split
  · exact (grows_endQuery s l).after (grows_judgeClass _ l _)
  · exact (grows_endQuery s l).after (grows_rejectRecord _ l _ _)

theorem grows_startCalibration (s : State) (l : Lane) (k : RunKind) (m : Option Nat) : Grows 1 s (s.startCalibration l k m) :=
  (grows_wake s l).then (grows_modLane _ l _)

theorem grows_leaveForClear (s : State) (l : Lane) : Grows 0 s (s.leaveForClear l) := by
  unfold State.leaveForClear
  split
  · exact grows_endQuery s l
  · exact grows_dropRequest s l
  · exact Grows.refl s

theorem grows_clearReturn (s : State) (l : Lane) (r : ContainerRecord) : Grows 2 s (s.clearReturn l r) := by
  unfold State.clearReturn
  dsimp only
  split
  · exact ((grows_leaveForClear s l).after (grows_enterReturn _ l)).mono (by omega)
  · exact (grows_leaveForClear s l).after (grows_rejectRecord _ l _ _)

theorem grows_discardRecord (s : State) (l : Lane) : Grows 1 s (s.discardRecord l) :=
  ((grows_leaveForClear s l).after (grows_dropRecord _ l)).after (grows_enterReady _ l)

/-! ### The corner -/

theorem grows_setConveyor (s : State) (c : Conveyor) : Grows 1 s (s.setConveyor c) := by
  unfold State.setConveyor
  split
  · exact (Grows.refl s).mono (by omega)
  · exact (Grows.of_eq rfl rfl : Grows 0 s { s with conveyor := c }).after (grows_noteConveyor _)

theorem grows_haltOff (s : State) : Grows 1 s s.haltOff := by
  unfold State.haltOff
  split
  · exact grows_setConveyor s _
  · exact (Grows.refl s).mono (by omega)

theorem grows_catchEmptied (s : State) : Grows 1 s s.catchEmptied :=
  (Grows.of_eq rfl rfl : Grows 0 s { s with catchCount := 0 }).after (grows_noteConveyor _)

theorem grows_clearPocket (s : State) : Grows 1 s s.clearPocket :=
  (Grows.of_eq rfl rfl : Grows 0 s { s with pocket := .empty }).after (grows_noteConveyor _)

theorem grows_writeCorner (s : State) (c : CornerConfig) : Grows 1 s (s.writeCorner c) := by
  unfold State.writeCorner
  dsimp only
  split
  · exact (Grows.of_eq rfl rfl : Grows 0 s { s with corner := c }).after (grows_noteConveyor _)
  · exact (Grows.of_eq rfl rfl : Grows 0 s { s with corner := c }).mono (by omega)

/-! ### RESTART -/

theorem grows_restartBlocks (s : State) : Grows 0 s s.restartBlocks :=
  ⟨by simp [State.restartBlocks, outPot], by simp [State.restartBlocks, LinkPort.restarted, heldPot],
   by simp [State.restartBlocks, LinkPort.restarted], rfl⟩

theorem grows_noteRestart (before s : State) : Grows 11 s (State.noteRestart before s) := by
  unfold State.noteRestart
  dsimp only
  have h4 : ∀ s : State, Grows 4 s
      (allLanes.foldl (fun s l => if (before.lane l).state = (s.lane l).state then s else s.noteLane l) s) := fun s =>
    (Grows.foldl (k := 1) (fun s l => by
      split
      · exact (Grows.refl s).mono (by omega)
      · exact grows_noteLane s l) allLanes s).mono (by decide)
  have h6 : ∀ s : State, Grows 6 s
      (allBins.foldl (fun s b => if (before.bin b).state = (s.bin b).state then s else s.noteBin b .state) s) := fun s =>
    (Grows.foldl (k := 1) (fun s b => by
      split
      · exact (Grows.refl s).mono (by omega)
      · exact grows_noteBin s b _) allBins s).mono (by decide)
  split
  · exact ((h4 s).trans (h6 _)).mono (by omega)
  · exact ((h4 s).trans (h6 _)).trans (grows_noteConveyor _)

/-! ### Commands -/

theorem grows_answerWith (s : State) (k t : Byte) (r : Result) (d : List Byte) : Grows 0 s (s.answerWith k t r d) :=
  ⟨Nat.le_refl _, Nat.le_refl _, Nat.le_refl _, rfl⟩

theorem grows_answer (s : State) (k t : Byte) (r : Result) : Grows 0 s (s.answer k t r) := grows_answerWith s k t r []

/-- A command grows as its effect does. -/
theorem grows_command {n : Nat} (s : State) (h : CmdHead) (kind : Byte) (len : Nat) (r : Except Result State)
    (hr : ∀ t, r = .ok t → Grows n s t) : Grows n s (s.command h kind len r) := by
  unfold State.command
  split
  · split
    · exact (hr _ rfl).then (grows_answer _ _ _ _)
    · exact (grows_answer s _ _ _).mono (by omega)
  · exact (grows_answer s _ _ _).mono (by omega)

theorem grows_queryCommand (s : State) (h : CmdHead) (len : Nat) (d : Except Result (List Byte)) :
    Grows 0 s (s.queryCommand h len d) := by
  unfold State.queryCommand
  split
  · split
    · exact grows_answerWith s _ _ _ _
    · exact grows_answer s _ _ _
  · exact grows_answer s _ _ _

end Sys2Proof.Machine
end

