-- ==== Sys2Proof/Laws/Rest.lean ====
section
/-! SUPPORT. Every event comes to rest: each rule taken lowers a measure that starts below the loop's bound, so that after `settle` no
rule is due (`settle_rests`), and between two parts of one event none of the corner (`cornerLoop_rests`). -/

namespace Sys2Proof.Machine

/-! ### What the taking of a command can add -/

theorem grows_runCommand (i : Instr) (s : State) : Grows 40 s (runCommand i s) := by
  have up : ∀ {k : Nat} {t : State}, Grows k s t → k ≤ 40 → Grows 40 s t := fun h hk => h.mono hk
  cases i <;> try exact up (Grows.refl s) (by omega)
  case setWindow h f =>
    refine up (grows_command (n := 0) s h _ _ _ fun t ht => ?_) (by omega)
    unfold State.checkSetWindow at ht
    split at ht
    · cases ht; exact Grows.of_eq rfl rfl
    · cases ht
  case setClass h f =>
    refine up (grows_command (n := 0) s h _ _ _ fun t ht => ?_) (by omega)
    unfold State.checkSetClass at ht
    split at ht
    · cases ht; exact Grows.of_eq rfl rfl
    · cases ht
  case setBin h f =>
    refine up (grows_command (n := 2) s h _ _ _ fun t ht => ?_) (by omega)
    unfold State.checkSetBin at ht
    repeat' split at ht
    all_goals cases ht
    exact grows_writeBin s _ _ _ _ _ _ _
  case setLane h f =>
    refine up (grows_command (n := 0) s h _ _ _ fun t ht => ?_) (by omega)
    unfold State.checkSetLane at ht
    repeat' split at ht
    all_goals cases ht
    exact Grows.foldl0 (fun s l => grows_modLane s l _) _ _
  case setCorner h f =>
    refine up (grows_command (n := 1) s h _ _ _ fun t ht => ?_) (by omega)
    unfold State.checkSetCorner at ht
    split at ht
    · cases ht; exact grows_writeCorner s _
    · cases ht
  case openLane h lane =>
    refine up (grows_command (n := 1) s h _ _ _ fun t ht => ?_) (by omega)
    unfold State.checkOpen at ht
    repeat' split at ht
    all_goals cases ht
    · exact (Grows.refl s).mono (by omega)
    · exact grows_openUp s _
  case closeLane h lane =>
    refine up (grows_command (n := 2) s h _ _ _ fun t ht => ?_) (by omega)
    unfold State.checkClose at ht
    repeat' split at ht
    all_goals cases ht
    · exact grows_setClosePending s _
    · exact (Grows.refl s).mono (by omega)
  case zero h lane =>
    refine up (grows_command (n := 1) s h _ _ _ fun t ht => ?_) (by omega)
    unfold State.checkCalibrate at ht
    repeat' split at ht
    all_goals cases ht
    exact grows_startCalibration s _ _ _
  case span h lane mass =>
    refine up (grows_command (n := 1) s h _ _ _ fun t ht => ?_) (by omega)
    unfold State.checkSpan State.checkCalibrate at ht
    repeat' split at ht
    all_goals cases ht
    exact grows_startCalibration s _ _ _
  case codeAnswer h lane seq answer =>
    refine up (grows_command (n := 2) s h _ _ _ fun t ht => ?_) (by omega)
    unfold State.checkAnswer at ht
    repeat' split at ht
    all_goals cases ht
    exact grows_answerQuery s _ _
  case binServiceBegin h bin fill =>
    refine up (grows_command (n := 33) s h _ _ _ fun t ht => ?_) (by omega)
    unfold State.checkServiceBegin at ht
    split at ht
    · split at ht
      · injection ht with ht
        exact ht ▸ grows_serviceBegins s _
      · cases ht
    · cases ht
  case binServiceEnd h bin fill =>
    refine up (grows_command (n := 1) s h _ _ _ fun t ht => ?_) (by omega)
    unfold State.checkServiceEnd at ht
    repeat' split at ht
    all_goals cases ht
    exact grows_serviceEnds s _ _
  case catchEmptied h =>
    refine (grows_command (n := 1) s h 0x0B#8 0 (.ok s.catchEmptied) fun t ht => ?_).mono (by omega)
    injection ht with ht
    exact ht ▸ grows_catchEmptied s
  case clearLaneRetry h lane =>
    refine up (grows_command (n := 1) s h _ _ _ fun t ht => ?_) (by omega)
    unfold State.checkRetry at ht
    dsimp only at ht
    repeat' split at ht
    all_goals cases ht
    exact grows_enterHold s _
  case clearLaneReturn h lane =>
    refine up (grows_command (n := 2) s h _ _ _ fun t ht => ?_) (by omega)
    unfold State.checkReturn at ht
    repeat' split at ht
    all_goals cases ht
    exact grows_clearReturn s _ _
  case clearLaneDiscard h lane =>
    refine up (grows_command (n := 1) s h _ _ _ fun t ht => ?_) (by omega)
    unfold State.checkDiscard at ht
    dsimp only at ht
    repeat' split at ht
    all_goals cases ht
    exact grows_discardRecord s _
  case clearConveyor h =>
    refine up (grows_command (n := 1) s h _ _ _ fun t ht => ?_) (by omega)
    unfold State.checkClearConveyor at ht
    split at ht
    · cases ht; exact grows_setConveyor s _
    · cases ht
  case clearPocket h =>
    refine up (grows_command (n := 1) s h _ _ _ fun t ht => ?_) (by omega)
    unfold State.checkClearPocket at ht
    split at ht
    · cases ht; exact grows_clearPocket s
    · cases ht
  case clearBin h bin =>
    refine up (grows_command (n := 1) s h _ _ _ fun t ht => ?_) (by omega)
    unfold State.checkClearBin at ht
    repeat' split at ht
    all_goals cases ht
    exact grows_clearBin s _
  case haltOn h =>
    refine (grows_command (n := 1) s h 0x0D#8 1 (.ok (s.setConveyor .halted)) fun t ht => ?_).mono (by omega)
    injection ht with ht
    exact ht ▸ grows_setConveyor s _
  case haltOff h =>
    refine (grows_command (n := 1) s h 0x0D#8 1 (.ok s.haltOff) fun t ht => ?_).mono (by omega)
    injection ht with ht
    exact ht ▸ grows_haltOff s
  case queryLane h lane => exact (grows_queryCommand s h _ _).mono (by omega)
  case queryBin h bin => exact (grows_queryCommand s h _ _).mono (by omega)
  case queryRing h => exact (grows_queryCommand s h 1 (.ok s.ringData)).mono (by omega)
  case queryCounters h => exact (grows_queryCommand s h 1 (.ok s.counterData)).mono (by omega)
  case querySession h lane => exact (grows_queryCommand s h _ _).mono (by omega)
  case restart h force =>
    refine up (grows_command (n := 11) s h _ _ _ fun t ht => ?_) (by omega)
    unfold State.checkRestart at ht
    repeat' split at ht
    all_goals cases ht
    exact (grows_restartBlocks s).after (grows_noteRestart s _)
  case unknownKindCommand f => exact (grows_answer s _ _ _).mono (by omega)

theorem grows_takeFrame (s : State) (f : Frame) : Grows 40 s (s.takeFrame f) := by
  unfold State.takeFrame
  split
  · exact (grows_answer s _ _ _).mono (by omega)
  · exact grows_runCommand _ s

/-! ### The measure -/

/-- How many of a lane's own moves are left to it within an event. -/
def stateRank (t : LaneState) : Nat :=
  match t with
  | .closed => 0
  | .standby | .dormant => 3
  | .ready => 2
  | _ => 1

/-- A CLOSING session that has not offered its voucher. -/
def closingPot (t : SessionState) (waiting : Bool) : Nat :=
  match t, waiting with
  | .closing, false => 7
  | _, _ => 0

/-- A hold cause CONVEYOR that differs from its condition at an open lane. -/
def holdPot (opened c held : Bool) : Nat :=
  match opened, c, held with
  | true, true, false => 3
  | true, false, true => 3
  | _, _, _ => 0

/-- What a lane can still bring about within an event. -/
def lanePot (held : Bool) (u : LaneUnit) : Nat :=
  3 * stateRank u.state + closingPot u.session.state u.session.voucherWaiting + holdPot u.state.isOpen u.holds.conveyor held

theorem closingPot_le (t : SessionState) (w : Bool) : closingPot t w ≤ 7 := by cases t <;> cases w <;> decide

theorem holdPot_le (o c h : Bool) : holdPot o c h ≤ 3 := by cases o <;> cases c <;> cases h <;> decide

def lanesPot (s : State) : Nat :=
  lanePot s.conveyorHeld (s.lane 0) + lanePot s.conveyorHeld (s.lane 1) + lanePot s.conveyorHeld (s.lane 2) +
    lanePot s.conveyorHeld (s.lane 3)

def binPot (u : BinUnit) : Nat := if u.state = .compactPending then 3 else 0

def binsPot (s : State) : Nat :=
  binPot (s.bin 0) + binPot (s.bin 1) + binPot (s.bin 2) + binPot (s.bin 3) + binPot (s.bin 4) + binPot (s.bin 5)

def convPot (c : Conveyor) (work : Bool) : Nat :=
  match c with
  | .stopped => if work then 3 else 0
  | .running _ => if work then 0 else 3
  | .runOut _ _ => if work then 3 else 0
  | _ => 0

def pocketPot (p : Pocket) : Nat := if p = .empty then 10 else 0

def txPot (t : Option Frame) : Nat := if t.isNone then 1 else 0

/-- The measure of what is left to happen at the event. -/
def restPot (s : State) : Nat :=
  200 * s.link.intake.length + outPot s + heldPot s + lanesPot s + binsPot s + convPot s.conveyor s.workPresent +
    pocketPot s.pocket + txPot s.link.transmitter

theorem stateRank_le (t : LaneState) : stateRank t ≤ 3 := by cases t <;> decide

theorem lanePot_le (held : Bool) (u : LaneUnit) : lanePot held u ≤ 19 := by
  have h1 := stateRank_le u.state
  have h2 := closingPot_le u.session.state u.session.voucherWaiting
  have h3 := holdPot_le u.state.isOpen u.holds.conveyor held
  unfold lanePot
  omega

theorem binPot_le (u : BinUnit) : binPot u ≤ 3 := by unfold binPot; split <;> omega

theorem convPot_le (c : Conveyor) (w : Bool) : convPot c w ≤ 3 := by
  cases c <;> cases w <;> simp [convPot]

theorem pocketPot_le (p : Pocket) : pocketPot p ≤ 10 := by unfold pocketPot; split <;> omega

theorem txPot_le (t : Option Frame) : txPot t ≤ 1 := by unfold txPot; split <;> omega

theorem lanesPot_le (s : State) : lanesPot s ≤ 76 := by
  have h := lanePot_le s.conveyorHeld
  have h0 := h (s.lane 0); have h1 := h (s.lane 1); have h2 := h (s.lane 2); have h3 := h (s.lane 3)
  unfold lanesPot; omega

theorem binsPot_le (s : State) : binsPot s ≤ 18 := by
  have h0 := binPot_le (s.bin 0); have h1 := binPot_le (s.bin 1); have h2 := binPot_le (s.bin 2)
  have h3 := binPot_le (s.bin 3); have h4 := binPot_le (s.bin 4); have h5 := binPot_le (s.bin 5)
  unfold binsPot; omega

theorem sum_weight_le {α : Type} (w : α → Nat) (n : Nat) (h : ∀ a, w a ≤ n) (l : List α) : (l.map w).sum ≤ n * l.length := by
  induction l with
  | nil => simp
  | cons a l ih =>
    have := h a
    simp only [List.map_cons, List.sum_cons, List.length_cons, Nat.mul_succ]
    omega

theorem made_weight_le (m : Made) : m.weight ≤ 6 := by
  unfold Made.weight; split <;> omega

theorem report_weight_le (r : Report) : r.weight ≤ 3 := by
  unfold Report.weight; split <;> omega

/-- The measure starts below the loop's bound. -/
theorem restPot_le_bound (s : State) : restPot s ≤ settleBound s := by
  have h1 := lanesPot_le s
  have h2 := binsPot_le s
  have h3 := convPot_le s.conveyor s.workPresent
  have h4 := pocketPot_le s.pocket
  have h5 := txPot_le s.link.transmitter
  have h6 : outPot s ≤ 6 * s.outbox.length := sum_weight_le _ _ made_weight_le _
  have h7 : heldPot s ≤ 3 * s.link.heldOut.length := sum_weight_le _ _ report_weight_le _
  unfold restPot settleBound
  omega

/-! ### Updates and the measure -/

theorem restPot_make (s : State) (m : Made) : restPot (s.make m) ≤ restPot s + m.weight := by
  unfold State.make
  split
  · omega
  · have : outPot { s with outbox := s.outbox ++ [m] } = outPot s + m.weight := by simp [outPot]
    simp only [restPot, this]
    show 200 * s.link.intake.length + (outPot s + m.weight) + heldPot s + lanesPot s + binsPot s +
      convPot s.conveyor s.workPresent + pocketPot s.pocket + txPot s.link.transmitter ≤ _
    omega

theorem restPot_noteLane (s : State) (l : Lane) : restPot (s.noteLane l) ≤ restPot s + 2 := restPot_make s (.lane l)

theorem restPot_noteConveyor (s : State) : restPot s.noteConveyor ≤ restPot s + 2 := restPot_make s .conveyor

theorem modLane_conveyorHeld (s : State) (l : Lane) (f : LaneUnit → LaneUnit) :
    (s.modLane l f).conveyorHeld = s.conveyorHeld := rfl

theorem modLane_workPresent (s : State) (l : Lane) (f : LaneUnit → LaneUnit) :
    (s.modLane l f).workPresent = s.workPresent := rfl

theorem lanesPot_modLane (s : State) (l : Lane) (f : LaneUnit → LaneUnit) :
    lanesPot (s.modLane l f) + lanePot s.conveyorHeld (s.lane l) =
      lanesPot s + lanePot s.conveyorHeld (f (s.lane l)) := by
  unfold lanesPot
  rw [modLane_conveyorHeld]
  simp only [State.modLane_lane]
  match l with
  | 0 => simp; omega
  | 1 => simp; omega
  | 2 => simp; omega
  | 3 => simp; omega

theorem restPot_modLane (s : State) (l : Lane) (f : LaneUnit → LaneUnit) :
    restPot (s.modLane l f) + lanePot s.conveyorHeld (s.lane l) = restPot s + lanePot s.conveyorHeld (f (s.lane l)) := by
  have h := lanesPot_modLane s l f
  unfold restPot
  show 200 * s.link.intake.length + outPot s + heldPot s + lanesPot (s.modLane l f) + binsPot s +
      convPot s.conveyor s.workPresent + pocketPot s.pocket + txPot s.link.transmitter + _ = _
  omega

/-- A lane in another state. -/
def LaneUnit.inState (u : LaneUnit) (t : LaneState) : LaneUnit := { u with state := t }

/-- A lane with another hold set. -/
def LaneUnit.withHolds (u : LaneUnit) (h : HoldSet) : LaneUnit := { u with holds := h }

theorem restPot_setLaneState (s : State) (l : Lane) (t : LaneState) :
    restPot (s.setLaneState l t) + lanePot s.conveyorHeld (s.lane l) ≤
      restPot s + lanePot s.conveyorHeld ((s.lane l).inState t) + 2 := by
  have h1 := restPot_noteLane (s.modLane l (·.inState t)) l
  have h2 := restPot_modLane s l (·.inState t)
  have key : restPot ((s.modLane l (·.inState t)).noteLane l) + lanePot s.conveyorHeld (s.lane l) ≤
      restPot s + lanePot s.conveyorHeld ((s.lane l).inState t) + 2 := by omega
  unfold State.setLaneState
  split
  · rename_i h
    have : (s.lane l).inState t = s.lane l := by rw [← h]; rfl
    rw [this]
    omega
  · exact key

theorem restPot_setHolds (s : State) (l : Lane) (h : HoldSet) :
    restPot (s.setHolds l h) + lanePot s.conveyorHeld (s.lane l) ≤
      restPot s + lanePot s.conveyorHeld ((s.lane l).withHolds h) + 2 := by
  have h1 := restPot_noteLane (s.modLane l (·.withHolds h)) l
  have h2 := restPot_modLane s l (·.withHolds h)
  have key : restPot ((s.modLane l (·.withHolds h)).noteLane l) + lanePot s.conveyorHeld (s.lane l) ≤
      restPot s + lanePot s.conveyorHeld ((s.lane l).withHolds h) + 2 := by omega
  unfold State.setHolds
  split
  · rename_i h'
    have : (s.lane l).withHolds h = s.lane l := by rw [← h']; rfl
    rw [this]
    omega
  · exact key

/-- A change of a lane and then of its state lowers the measure when the lane's own part falls by three. -/
theorem restPot_move (s : State) (l : Lane) (f : LaneUnit → LaneUnit) (t : LaneState)
    (h : lanePot s.conveyorHeld ((f (s.lane l)).inState t) + 3 ≤ lanePot s.conveyorHeld (s.lane l)) :
    restPot ((s.modLane l f).setLaneState l t) < restPot s := by
  have h1 := restPot_setLaneState (s.modLane l f) l t
  have h2 := restPot_modLane s l f
  rw [modLane_conveyorHeld, State.modLane_lane_self] at h1
  omega

/-! ### Each rule lowers the measure -/

theorem findLane_some {s : State} {p : LaneUnit → Bool} {l : Lane} (h : s.findLane p = some l) : p (s.lane l) = true := by
  unfold State.findLane at h
  have := List.find?_some h
  simpa using this

theorem powerConverter_eq (u : LaneUnit) : u.powerConverter.session = u.session ∧ u.powerConverter.holds = u.holds ∧
    u.powerConverter.state = u.state := by
  unfold LaneUnit.powerConverter; split <;> exact ⟨rfl, rfl, rfl⟩

theorem abandonAutoZero_eq (u : LaneUnit) : u.abandonAutoZero.session = u.session ∧ u.abandonAutoZero.holds = u.holds ∧
    u.abandonAutoZero.state = u.state := by
  unfold LaneUnit.abandonAutoZero; split <;> exact ⟨rfl, rfl, rfl⟩

theorem dueConveyorHold_lowers {s t : State} (h : s.dueConveyorHold = some t) : restPot t < restPot s := by
  simp only [State.dueConveyorHold, Option.map_eq_some_iff] at h
  obtain ⟨l, hl, rfl⟩ := h
  have hp := findLane_some hl
  generalize hh : ({ (s.lane l).holds with conveyor := s.conveyorHeld } : HoldSet) = h
  have hs := restPot_setHolds s l h
  have : lanePot s.conveyorHeld ((s.lane l).withHolds h) + 3 = lanePot s.conveyorHeld (s.lane l) := by
    subst hh
    simp only [LaneUnit.isOpen, Bool.and_eq_true, bne_iff_ne, ne_eq] at hp
    have : holdPot true s.conveyorHeld s.conveyorHeld + 3 = holdPot true (s.lane l).holds.conveyor s.conveyorHeld := by
      have := hp.2
      revert this
      cases (s.lane l).holds.conveyor <;> cases s.conveyorHeld <;> simp [holdPot]
    simp only [lanePot, LaneUnit.withHolds, hp.1]
    omega
  omega

theorem dueWake_lowers {s t : State} (h : s.dueWake = some t) : restPot t < restPot s := by
  simp only [State.dueWake, Option.map_eq_some_iff] at h
  obtain ⟨l, hl, rfl⟩ := h
  have hp := findLane_some hl
  refine restPot_move s l _ _ ?_
  obtain ⟨e1, e2, e3⟩ := powerConverter_eq (s.lane l)
  simp only [LaneUnit.wakesUnheld, Bool.and_eq_true, Bool.or_eq_true, beq_iff_eq] at hp
  simp only [lanePot, LaneUnit.inState, e1, e2]
  rcases hp.1.1 with h | h <;> simp only [h, stateRank, LaneState.isOpen] <;> omega

theorem dueClosed_lowers {s t : State} (h : s.dueClosed = some t) : restPot t < restPot s := by
  simp only [State.dueClosed, Option.map_eq_some_iff] at h
  obtain ⟨l, hl, rfl⟩ := h
  have hp := findLane_some hl
  refine restPot_move s l _ _ ?_
  simp only [LaneUnit.closes, Bool.and_eq_true] at hp
  have ho : 1 ≤ stateRank (s.lane l).state := by
    have := hp.1.1.1.1
    unfold LaneUnit.isOpen at this
    cases hst : (s.lane l).state <;> simp_all [stateRank, LaneState.isOpen]
  have e1 : stateRank .closed = 0 := rfl
  have e2 : ∀ c, holdPot false c s.conveyorHeld = 0 := fun _ => rfl
  simp only [lanePot, LaneUnit.inState, LaneState.isOpen, LaneUnit.endRun, e1, e2]
  omega

theorem dueAdmission_lowers {s t : State} (h : s.dueAdmission = some t) : restPot t < restPot s := by
  simp only [State.dueAdmission, Option.map_eq_some_iff] at h
  obtain ⟨l, hl, rfl⟩ := h
  have hp := findLane_some hl
  refine restPot_move s l _ _ ?_
  obtain ⟨e1, e2, e3⟩ := abandonAutoZero_eq (s.lane l)
  simp only [LaneUnit.admits, Bool.and_eq_true, beq_iff_eq] at hp
  simp only [lanePot, LaneUnit.inState, e1, e2, hp.1.1.1, stateRank, LaneState.isOpen]
  omega

theorem dueVoucher_lowers {s t : State} (h : s.dueVoucher = some t) : restPot t < restPot s := by
  simp only [State.dueVoucher, Option.map_eq_some_iff] at h
  obtain ⟨l, hl, rfl⟩ := h
  have hp := findLane_some hl
  simp only [LaneUnit.voucherDue, Bool.and_eq_true, beq_iff_eq, Bool.not_eq_true'] at hp
  generalize hf : (fun u : LaneUnit => { u with session := { u.session with voucherWaiting := true } }) = f
  have h1 := restPot_make (s.modLane l f) (.voucher l)
  have h2 := restPot_modLane s l f
  have h3 : lanePot s.conveyorHeld (f (s.lane l)) + 7 = lanePot s.conveyorHeld (s.lane l) := by
    subst hf
    simp only [lanePot, hp.1.1, hp.1.2]
    simp only [closingPot]
    omega
  have h4 : (Made.voucher l).weight = 6 := rfl
  have key : restPot ((s.modLane l f).make (.voucher l)) < restPot s := by omega
  subst hf
  exact key

theorem binsPot_modBin (s : State) (b : BinId) (f : BinUnit → BinUnit) :
    binsPot (s.modBin b f) + binPot (s.bin b) = binsPot s + binPot (f (s.bin b)) := by
  unfold binsPot
  simp only [State.modBin_bin]
  match b with
  | 0 => simp; omega
  | 1 => simp; omega
  | 2 => simp; omega
  | 3 => simp; omega
  | 4 => simp; omega
  | 5 => simp; omega

theorem restPot_modBin (s : State) (b : BinId) (f : BinUnit → BinUnit) :
    restPot (s.modBin b f) + binPot (s.bin b) = restPot s + binPot (f (s.bin b)) := by
  have h := binsPot_modBin s b f
  unfold restPot
  show 200 * s.link.intake.length + outPot s + heldPot s + lanesPot s + binsPot (s.modBin b f) +
      convPot s.conveyor s.workPresent + pocketPot s.pocket + txPot s.link.transmitter + _ = _
  omega

/-- The measure reads nothing of the choices. -/
theorem restPot_congr {s t : State} (h1 : t.link = s.link) (h2 : outPot t = outPot s) (h3 : t.lanes = s.lanes) (h4 : t.bins = s.bins)
    (h5 : t.conveyor = s.conveyor) (h6 : t.requests = s.requests) (h7 : t.pocket = s.pocket) (h8 : t.ring = s.ring)
    (h9 : t.catchCount = s.catchCount) (h10 : t.corner = s.corner) : restPot t = restPot s := by
  simp only [restPot, heldPot, lanesPot, binsPot, State.lane, State.bin, State.workPresent, State.conveyorHeld, State.trayFull,
    h1, h2, h3, h4, h5, h6, h7, h8, h9, h10]

theorem restPot_noteBin (s : State) (b : BinId) (e : BinEvent) : restPot (s.noteBin b e) ≤ restPot s + 2 := by
  have ho := (grows_noteBin s b e).out
  have hd : s.draw.2.lanes = s.lanes ∧ s.draw.2.bins = s.bins ∧ s.draw.2.conveyor = s.conveyor ∧ s.draw.2.requests = s.requests ∧
      s.draw.2.pocket = s.pocket ∧ s.draw.2.ring = s.ring ∧ s.draw.2.catchCount = s.catchCount ∧ s.draw.2.corner = s.corner := by
    unfold State.draw; split <;> exact ⟨rfl, rfl, rfl, rfl, rfl, rfl, rfl, rfl⟩
  have hl : (s.noteBin b e).link = s.link ∧ (s.noteBin b e).lanes = s.lanes ∧ (s.noteBin b e).bins = s.bins ∧
      (s.noteBin b e).conveyor = s.conveyor ∧ (s.noteBin b e).requests = s.requests ∧ (s.noteBin b e).pocket = s.pocket ∧
      (s.noteBin b e).ring = s.ring ∧ (s.noteBin b e).catchCount = s.catchCount ∧ (s.noteBin b e).corner = s.corner := by
    unfold State.noteBin
    split
    · exact ⟨rfl, rfl, rfl, rfl, rfl, rfl, rfl, rfl, rfl⟩
    · split
      · exact ⟨rfl, rfl, rfl, rfl, rfl, rfl, rfl, rfl, rfl⟩
      · split
        · exact ⟨rfl, rfl, rfl, rfl, rfl, rfl, rfl, rfl, rfl⟩
        · exact ⟨draw_link s, hd⟩
  obtain ⟨a1, a2, a3, a4, a5, a6, a7, a8, a9⟩ := hl
  have h : restPot { s with outbox := (s.noteBin b e).outbox } = restPot (s.noteBin b e) :=
    restPot_congr a1.symm rfl a2.symm a3.symm a4.symm a5.symm a6.symm a7.symm a8.symm a9.symm
  rw [← h]
  show 200 * s.link.intake.length + outPot (s.noteBin b e) + heldPot s + lanesPot s + binsPot s +
      convPot s.conveyor s.workPresent + pocketPot s.pocket + txPot s.link.transmitter ≤ restPot s + 2
  unfold restPot
  omega

theorem dueCompacting_lowers {s t : State} (h : s.dueCompacting = some t) : restPot t < restPot s := by
  simp only [State.dueCompacting, Option.map_eq_some_iff] at h
  obtain ⟨b, hb, rfl⟩ := h
  have hp : (s.bin b).compactionDue = true := by simpa using List.find?_some hb
  simp only [BinUnit.compactionDue, Bool.and_eq_true, beq_iff_eq] at hp
  have h2 := restPot_modBin s b (fun u => u.entering .compacting none)
  have h3 : binPot (s.bin b) = 3 := by simp [binPot, hp.1]
  have h4 : binPot ((s.bin b).entering .compacting none) = 0 := by simp [binPot, BinUnit.entering]
  have h1 := restPot_noteBin (s.modBin b (fun u => u.entering .compacting none)) b .state
  unfold State.startCompacting State.binTo State.binEnters
  simp only [hp.1]
  have : ((BinState.compactPending != BinState.compacting) = true) := by decide
  rw [if_pos this]
  omega

/-- A change of the conveyor that leaves its bar on grants as it was lowers the measure by what its own part falls. -/
theorem restPot_setConveyor (s : State) (c : Conveyor) (hb : c.barsGrants = s.conveyor.barsGrants)
    (hp : convPot c s.workPresent + 3 ≤ convPot s.conveyor s.workPresent) : restPot (s.setConveyor c) < restPot s := by
  unfold State.setConveyor
  split
  · rename_i h
    rw [h] at hp
    omega
  · have h1 := restPot_noteConveyor { s with conveyor := c }
    have hh : ({ s with conveyor := c } : State).conveyorHeld = s.conveyorHeld := by
      simp only [State.conveyorHeld, hb, State.trayFull]
    have h2 : restPot { s with conveyor := c } + convPot s.conveyor s.workPresent = restPot s + convPot c s.workPresent := by
      have hl : lanesPot { s with conveyor := c } = lanesPot s := by
        unfold lanesPot; rw [hh]; rfl
      unfold restPot
      rw [hl]
      show 200 * s.link.intake.length + outPot s + heldPot s + lanesPot s + binsPot s +
        convPot c s.workPresent + pocketPot s.pocket + txPot s.link.transmitter + _ = _
      omega
    omega

theorem dueConveyor_lowers {s t : State} (h : s.dueConveyor = some t) : restPot t < restPot s := by
  unfold State.dueConveyor at h
  split at h
  · rename_i hc
    split at h
    · rename_i hw
      cases h
      exact restPot_setConveyor s _ (by rw [hc]; rfl) (by rw [hc]; simp [convPot, hw])
    · cases h
  · rename_i n hc
    split at h
    · cases h
    · rename_i hw
      cases h
      unfold State.conveyorRunsOut
      rw [hc]
      exact restPot_setConveyor s _ (by rw [hc]; rfl) (by rw [hc]; simp [convPot, hw])
  · rename_i n m hc
    split at h
    · rename_i hw
      cases h
      unfold State.conveyorResumes
      rw [hc]
      exact restPot_setConveyor s _ (by rw [hc]; rfl) (by rw [hc]; simp [convPot, hw])
    · cases h
  all_goals cases h

theorem dueGrant_lowers {s t : State} (h : s.dueGrant = some t) : restPot t < restPot s := by
  unfold State.dueGrant at h
  split at h
  · rename_i hg
    cases h
    simp only [Bool.and_eq_true, State.mayGrant, beq_iff_eq] at hg
    have hp := hg.1.1.1.1
    unfold State.grant
    split
    · rename_i l rest hr
      dsimp only
      have h0 : ∀ p : Pocket, p = .granted l (s.lane l).config.handoffTime →
          restPot { s with requests := rest, pocket := p } + 10 = restPot s := by
        intro p hpp
        subst hpp
        have hw : ({ s with requests := rest, pocket := .granted l (s.lane l).config.handoffTime } : State).workPresent =
            s.workPresent := by simp [State.workPresent, Pocket.isWork, hr]
        have hh : ({ s with requests := rest, pocket := .granted l (s.lane l).config.handoffTime } : State).conveyorHeld =
            s.conveyorHeld := by
          have e1 : (Pocket.granted l (s.lane l).config.handoffTime == Pocket.fault) = false := by rfl
          have e2 : (Pocket.empty == Pocket.fault) = false := by rfl
          simp [State.conveyorHeld, State.trayFull, hp, e1, e2]
        have hl : lanesPot { s with requests := rest, pocket := .granted l (s.lane l).config.handoffTime } = lanesPot s := by
          unfold lanesPot; rw [hh]; rfl
        have hpk : pocketPot s.pocket = 10 := by rw [hp]; rfl
        unfold restPot
        rw [hl, hw]
        show 200 * s.link.intake.length + outPot s + heldPot s + lanesPot s + binsPot s +
          convPot s.conveyor s.workPresent + 0 + txPot s.link.transmitter + 10 = _
        omega
      have h1 := h0 _ rfl
      generalize hs1 : ({ s with requests := rest, pocket := .granted l (s.lane l).config.handoffTime } : State) = s1 at h1 ⊢
      generalize hf : (fun u : LaneUnit => { u with belt := .forward }) = f
      have h2 := restPot_modLane s1 l f
      have h3 := restPot_setLaneState (s1.modLane l f) l .handoff
      rw [modLane_conveyorHeld, State.modLane_lane_self] at h3
      have h4 : lanePot s1.conveyorHeld ((f (s1.lane l)).inState .handoff) ≤ lanePot s1.conveyorHeld (s1.lane l) + 6 := by
        subst hf
        have e1 : stateRank .handoff = 1 := rfl
        have e2 := holdPot_le LaneState.handoff.isOpen (s1.lane l).holds.conveyor s1.conveyorHeld
        simp only [lanePot, LaneUnit.inState, e1]
        omega
      have h5 : lanePot s1.conveyorHeld (f (s1.lane l)) = lanePot s1.conveyorHeld (s1.lane l) := by subst hf; rfl
      omega
    · rename_i hr
      simp [hr] at hg
  · cases h

theorem dueBegin_lowers {s t : State} (h : s.dueBegin = some t) : restPot t < restPot s := by
  simp only [State.dueBegin, Option.map_eq_some_iff] at h
  obtain ⟨k, hk, rfl⟩ := h
  have : k.intake = s.link.intake ∧ k.heldOut = s.link.heldOut ∧ txPot k.transmitter + 1 = txPot s.link.transmitter := by
    unfold LinkPort.begin? at hk
    split at hk
    · cases hk
    · rename_i ht _; cases hk; exact ⟨rfl, rfl, by rw [ht]; rfl⟩
    · rename_i ht _ _; cases hk; exact ⟨rfl, rfl, by rw [ht]; rfl⟩
    · cases hk
  obtain ⟨h1, h2, h3⟩ := this
  have e1 : heldPot { s with link := k } = heldPot s := by simp [heldPot, h2]
  unfold restPot
  rw [e1]
  dsimp only
  rw [h1]
  show 200 * s.link.intake.length + outPot s + heldPot s + lanesPot s + binsPot s +
      convPot s.conveyor s.workPresent + pocketPot s.pocket + txPot k.transmitter < _
  omega

theorem dueTake_lowers {s t : State} (h : s.dueTake = some t) : restPot t < restPot s := by
  unfold State.dueTake at h
  split at h
  · rename_i hi
    cases h
    unfold State.takeHead
    split
    · rename_i f rest hf
      have hg := grows_takeFrame { s with link := { s.link with intake := rest } } f
      generalize ht : ({ s with link := { s.link with intake := rest } } : State).takeFrame f = t at hg ⊢
      have g1 := hg.out
      have g2 := hg.held
      have g3 := hg.intake
      have g4 := hg.tx
      have e1 : outPot { s with link := { s.link with intake := rest } } = outPot s := rfl
      have e2 : heldPot { s with link := { s.link with intake := rest } } = heldPot s := rfl
      have e3 : s.link.intake.length = rest.length + 1 := by rw [hf]; rfl
      have e4 : txPot t.link.transmitter = txPot s.link.transmitter := by rw [g4]
      have b1 := lanesPot_le t
      have b2 := binsPot_le t
      have b3 := convPot_le t.conveyor t.workPresent
      have b4 := pocketPot_le t.pocket
      rw [e1] at g1
      rw [e2] at g2
      dsimp only at g3
      unfold restPot
      omega
    · rename_i hf
      simp [hf] at hi
  · cases h

theorem restPot_voucherQueued (s : State) (l : Lane) : restPot (s.voucherQueued l) ≤ restPot s + 2 := by
  generalize hf : (fun u : LaneUnit => { u with session := Session.none (seqNext u.session.number) }) = f
  have h1 := restPot_modLane s l f
  generalize hs : s.modLane l f = s1 at h1
  generalize hh : ({ (s1.lane l).holds with sessionClosing := false } : HoldSet) = h
  have h2 := restPot_setHolds s1 l h
  have h3 : lanePot s1.conveyorHeld ((s1.lane l).withHolds h) = lanePot s1.conveyorHeld (s1.lane l) := by subst hh; rfl
  have h4 : lanePot s.conveyorHeld (f (s.lane l)) ≤ lanePot s.conveyorHeld (s.lane l) := by
    subst hf
    have e1 : closingPot .none false = 0 := rfl
    simp only [lanePot, Session.none, e1]
    omega
  have key : restPot (s1.setHolds l h) ≤ restPot s + 2 := by omega
  subst hh hs hf
  exact key

theorem restPot_codeQueryQueued (s : State) (l : Lane) : restPot (s.codeQueryQueued l) = restPot s := by
  generalize hf : (fun u : LaneUnit => match u.query with
    | .waitingRoom seq code => { u with query := .opened seq code s.corner.queryTimeout }
    | _ => u) = f
  have h := restPot_modLane s l f
  have h2 : lanePot s.conveyorHeld (f (s.lane l)) = lanePot s.conveyorHeld (s.lane l) := by
    subst hf
    dsimp only
    split <;> rfl
  have key : restPot (s.modLane l f) = restPot s := by omega
  subst hf
  exact key

theorem dueHeldOut_lowers {s t : State} (h : s.dueHeldOut = some t) : restPot t < restPot s := by
  unfold State.dueHeldOut at h
  split at h
  · rename_i hi
    cases h
    unfold State.heldOutEnters
    split
    · rename_i hh
      simp [hh] at hi
    · rename_i r rest hh
      obtain ⟨pop, hpd⟩ : ∃ p : List Report → State, p = fun q => { s with link := { s.link with heldOut := rest, queue := q } } :=
        ⟨_, rfl⟩
      have hpop : ∀ q : List Report, restPot (pop q) + r.weight = restPot s := by
        intro q
        have h1 : heldPot s = r.weight + heldPot (pop q) := by subst hpd; simp [heldPot, hh]
        have h2 : restPot (pop q) = 200 * s.link.intake.length + outPot s + heldPot (pop q) + lanesPot s + binsPot s +
            convPot s.conveyor s.workPresent + pocketPot s.pocket + txPot s.link.transmitter := by
          subst hpd
          rfl
        rw [h2]
        unfold restPot
        omega
      dsimp only
      split
      · rename_i v
        have h1 := restPot_voucherQueued (pop (s.link.queue ++
          [.voucher (({ s with link := { s.link with heldOut := rest } } : State).voucherReport v.lane)])) v.lane
        have h3 : (Report.voucher v).weight = 3 := rfl
        have hp := hpop (s.link.queue ++
          [.voucher (({ s with link := { s.link with heldOut := rest } } : State).voucherReport v.lane)])
        have key := Nat.lt_of_le_of_lt h1 (show _ < restPot s by rw [h3] at hp; rw [← hp]; exact Nat.lt_succ_self _)
        subst hpd
        exact key
      · rename_i l q c
        have hp := hpop (s.link.queue ++ [.codeQuery l q c])
        have h1 := restPot_codeQueryQueued (pop (s.link.queue ++ [.codeQuery l q c])) l
        have h3 : (Report.codeQuery l q c).weight = 1 := rfl
        have key := Nat.lt_of_le_of_lt (Nat.le_of_eq h1) (show _ < restPot s by omega)
        subst hpd
        exact key
      · have hp := hpop (s.link.queue ++ [r])
        have h3 : 1 ≤ r.weight := by unfold Report.weight; split <;> omega
        have key : restPot (pop (s.link.queue ++ [r])) < restPot s := by omega
        subst hpd
        exact key
  · cases h

/-! ### The flush -/

/-- The weight of a report's kind. -/
theorem weight_replaceSubject (x : Subject) (r : Report) (hr : r.weight = 1) (l : List Report) :
    ((replaceSubject x r l).map Report.weight).sum ≤ (l.map Report.weight).sum := by
  induction l with
  | nil => simp [replaceSubject]
  | cons q l ih =>
    have hq : 1 ≤ q.weight := by unfold Report.weight; split <;> omega
    simp only [replaceSubject, List.map_cons, List.sum_cons] at ih ⊢
    split <;> omega

theorem coalesced_weight {r : Report} {x : Subject} (h : r.treatment = .coalesced x) : r.weight = 1 := by
  cases r <;> simp [Report.treatment] at h <;> rfl

/-- An offer holds out at most the report offered, and touches neither the intake buffer nor the transmitter. -/
theorem offer_growth (k : LinkPort) (r : Report) :
    ((k.offer r).heldOut.map Report.weight).sum ≤ (k.heldOut.map Report.weight).sum + r.weight ∧
      (k.offer r).intake = k.intake ∧ (k.offer r).transmitter = k.transmitter := by
  unfold LinkPort.offer
  split
  · split
    · exact ⟨by simp [LinkPort.enqueue], rfl, rfl⟩
    · exact ⟨by simp, rfl, rfl⟩
  · split
    · exact ⟨by simp [LinkPort.enqueue], rfl, rfl⟩
    · exact ⟨by simp [LinkPort.holdOut], rfl, rfl⟩
  · rename_i x hx
    have hw := coalesced_weight hx
    split
    · exact ⟨by simp, rfl, rfl⟩
    · split
      · have := weight_replaceSubject x r hw k.heldOut
        exact ⟨by dsimp only; omega, rfl, rfl⟩
      · split
        · exact ⟨by simp [LinkPort.enqueue], rfl, rfl⟩
        · exact ⟨by simp [LinkPort.holdOut], rfl, rfl⟩

theorem offers_growth (g : Made → Report) (l : List Made) (k : LinkPort) :
    ((l.foldl (fun k m => k.offer (g m)) k).heldOut.map Report.weight).sum ≤
        (k.heldOut.map Report.weight).sum + (l.map (fun m => (g m).weight)).sum ∧
      (l.foldl (fun k m => k.offer (g m)) k).intake = k.intake ∧
      (l.foldl (fun k m => k.offer (g m)) k).transmitter = k.transmitter := by
  induction l generalizing k with
  | nil => simp
  | cons m l ih =>
    obtain ⟨a1, a2, a3⟩ := ih (k.offer (g m))
    obtain ⟨b1, b2, b3⟩ := offer_growth k (g m)
    simp only [List.foldl_cons, List.map_cons, List.sum_cons]
    exact ⟨by omega, a2.trans b2, a3.trans b3⟩

theorem insertAt_perm {α : Type} (k : Nat) (x : α) (l : List α) : (insertAt k x l).Perm (x :: l) := by
  induction l generalizing k with
  | nil => cases k <;> exact List.Perm.refl _
  | cons y l ih =>
    cases k with
    | zero => exact List.Perm.refl _
    | succ k => exact ((ih k).cons y).trans (List.Perm.swap x y l)

/-- Every arrangement is a reordering: it drops and adds nothing. -/
theorem arrange_perm {α : Type} (k : Nat) (l : List α) : (arrange k l).Perm l := by
  induction l generalizing k with
  | nil => unfold arrange; exact List.Perm.refl _
  | cons x l ih =>
    cases l with
    | nil => unfold arrange; exact List.Perm.refl _
    | cons y l => unfold arrange; exact (insertAt_perm _ _ _).trans ((ih _).cons x)

theorem arranged_perm {α : Type} (s : State) (l : List α) : (s.arranged l).1.Perm l := by
  unfold State.arranged
  split
  · exact List.Perm.refl _
  · exact arrange_perm _ _

/-- A free order draws a choice and touches nothing else. -/
theorem arranged_state {α : Type} (s : State) (l : List α) : (s.arranged l).2 = s ∨ (s.arranged l).2 = s.draw.2 := by
  unfold State.arranged
  split
  · exact Or.inl rfl
  · exact Or.inr rfl

/-- The reports that an owner's acting can make. -/
def ownWeight : Made → Nat
  | .voucher _ => 2
  | _ => 0

theorem codeQueryReport_weight (s : State) (l : Lane) : (s.codeQueryReport l).weight = 1 := by
  unfold State.codeQueryReport; split <;> rfl

theorem reportOf_weight (s : State) (m : Made) : (s.reportOf m).weight + (if (s.reportOf m).weight = 3 then 3 else 1) ≤ m.weight := by
  cases m with
  | whole r => cases r <;> simp [State.reportOf, Report.withCatchCount, Report.weight, Made.weight]
  | codeQuery l =>
    simp [State.reportOf, codeQueryReport_weight, Made.weight]
  | _ => simp [State.reportOf, Report.weight, Made.weight]

/-- The owner of a voucher acts at most once for its entry; others make no report. -/
theorem restPot_ownerActs (s : State) (m : Made) :
    restPot (s.ownerActs m) ≤ restPot s + ownWeight m := by
  cases m with
  | voucher l =>
    simp only [State.ownerActs]
    split
    · omega
    · exact restPot_voucherQueued s l
  | codeQuery l =>
    simp only [State.ownerActs]
    split
    · omega
    · have := restPot_codeQueryQueued s l
      omega
  | _ => simp [State.ownerActs]

theorem restPot_ownersAct (l : List Made) (s : State) :
    restPot (l.foldl State.ownerActs s) ≤ restPot s + (l.map ownWeight).sum := by
  induction l generalizing s with
  | nil => simp
  | cons m l ih =>
    have h1 := ih (s.ownerActs m)
    have h2 := restPot_ownerActs s m
    simp only [List.foldl_cons, List.map_cons, List.sum_cons]
    omega

theorem flush_sum (s : State) (l : List Made) :
    (l.map (fun m => (s.reportOf m).weight)).sum + (l.map ownWeight).sum + l.length ≤
      (l.map Made.weight).sum := by
  induction l with
  | nil => simp
  | cons m l ih =>
    have h := reportOf_weight s m
    have hm : (s.reportOf m).weight + ownWeight m + 1 ≤ m.weight := by
      cases m with
      | voucher l => simp [State.reportOf, Report.weight, Made.weight, ownWeight]
      | _ =>
        refine Nat.le_trans ?_ h
        simp only [ownWeight]
        split <;> omega
    simp only [List.map_cons, List.sum_cons, List.length_cons]
    omega

/-- The three forms of an offering: all reports where no more can come, a part of them with the VOUCHERs, and a part of them before a
command is taken. -/
theorem dueFlush_cases {s t : State} (h : s.dueFlush = some t) :
    (t = s.flush ∧ s.takesReporting = false) ∨ (t = s.offerVouchers ∧ s.takesReporting = false) ∨
      (t = s.offerBeforeTaking ∧ s.takesReporting = true) := by
  unfold State.dueFlush at h
  split at h
  · cases h
  · split at h
    · cases h; exact Or.inr (Or.inr ⟨rfl, ‹_›⟩)
    · rename_i ht
      rw [Bool.not_eq_true] at ht
      split at h
      · cases h; exact Or.inr (Or.inl ⟨rfl, ht⟩)
      · cases h; exact Or.inl ⟨rfl, ht⟩

/-- A flush lowers the measure by at least the reports it offers. -/
theorem flush_lowers (s : State) : restPot s.flush + s.outbox.length ≤ restPot s := by
  unfold State.flush
  dsimp only
  have hperm := arranged_perm s s.outbox
  have hst := arranged_state s s.outbox
  generalize (s.arranged s.outbox).1 = order at hperm ⊢
  generalize (s.arranged s.outbox).2 = s1 at hst ⊢
  have hsame : s1.link = s.link ∧ s1.outbox = s.outbox ∧ s1.lanes = s.lanes ∧ s1.bins = s.bins ∧ s1.conveyor = s.conveyor ∧
      s1.requests = s.requests ∧ s1.pocket = s.pocket ∧ s1.ring = s.ring ∧ s1.catchCount = s.catchCount ∧
      s1.corner = s.corner := by
    rcases hst with h | h
    · rw [h]; exact ⟨rfl, rfl, rfl, rfl, rfl, rfl, rfl, rfl, rfl, rfl⟩
    · rw [h]; unfold State.draw; split <;> exact ⟨rfl, rfl, rfl, rfl, rfl, rfl, rfl, rfl, rfl, rfl⟩
  obtain ⟨c1, c2, c3, c4, c5, c6, c7, c8, c9, c10⟩ := hsame
  have hpot : restPot s1 = restPot s := restPot_congr c1 (by simp [outPot, c2]) c3 c4 c5 c6 c7 c8 c9 c10
  obtain ⟨o1, o2, o3⟩ := offers_growth s1.reportOf order s1.link
  generalize order.foldl (fun k m => k.offer (s1.reportOf m)) s1.link = k at o1 o2 o3 ⊢
  have hsum : (order.map (fun m => (s1.reportOf m).weight)).sum = (s.outbox.map (fun m => (s1.reportOf m).weight)).sum :=
    (hperm.map _).sum_eq
  have hown := restPot_ownersAct s.outbox { s1 with link := k, outbox := [] }
  have hfs := flush_sum s1 s.outbox
  have hrest : restPot { s1 with link := k, outbox := [] } + outPot s1 + heldPot s1 =
      restPot s1 + (k.heldOut.map Report.weight).sum := by
    have e1 : outPot { s1 with link := k, outbox := [] } = 0 := rfl
    have e2 : heldPot { s1 with link := k, outbox := [] } = (k.heldOut.map Report.weight).sum := rfl
    unfold restPot
    rw [e1, e2]
    dsimp only
    rw [o2, o3]
    show 200 * s1.link.intake.length + 0 + _ + lanesPot s1 + binsPot s1 +
        convPot s1.conveyor s1.workPresent + pocketPot s1.pocket + txPot s1.link.transmitter + _ + _ = _
    omega
  have e3 : heldPot s1 = (s1.link.heldOut.map Report.weight).sum := rfl
  have e4 : outPot s1 = (s.outbox.map Made.weight).sum := by simp [outPot, c2]
  omega

/-- The measure of a state with another outbox. -/
theorem restPot_outbox (s : State) (o : List Made) : restPot { s with outbox := o } + outPot s = restPot s + (o.map Made.weight).sum := by
  have e1 : outPot { s with outbox := o } = (o.map Made.weight).sum := rfl
  have e2 : heldPot { s with outbox := o } = heldPot s := rfl
  unfold restPot
  rw [e1, e2]
  show 200 * s.link.intake.length + (o.map Made.weight).sum + heldPot s + lanesPot s + binsPot s +
      convPot s.conveyor s.workPresent + pocketPot s.pocket + txPot s.link.transmitter + outPot s = _
  omega

/-- A parting drops and adds nothing. -/
theorem partMade_perm (may : Made → Bool) (k : Nat) (l : List Made) : ((partMade may k l).1 ++ (partMade may k l).2).Perm l := by
  induction l generalizing k with
  | nil => exact List.Perm.refl _
  | cons m l ih =>
    unfold partMade
    dsimp only
    split
    · exact (List.perm_middle).trans ((ih _).cons m)
    · exact (ih _).cons m

/-- Where only plain reports may be put off, a VOUCHER is offered. -/
theorem partMade_voucher (k : Nat) (l : List Made) (h : l.any Made.isVoucher = true) : (partMade Made.plain k l).1 ≠ [] := by
  induction l generalizing k with
  | nil => cases h
  | cons m l ih =>
    unfold partMade
    dsimp only
    split
    · rename_i hc
      have hm : m.isVoucher = false := by
        cases m <;> first | rfl | cases hc
      rw [List.any_cons, hm, Bool.false_or] at h
      exact ih _ h
    · exact List.cons_ne_nil _ _

theorem draw_pot (s : State) : restPot s.draw.2 = restPot s ∧ s.draw.2.outbox = s.outbox := by
  unfold State.draw; split <;> exact ⟨rfl, rfl⟩

/-- Offering a part of the reports lowers the measure by at least the reports offered. -/
theorem offerPart_lowers (s : State) (now off : List Made) (hp : (now ++ off).Perm s.outbox) :
    restPot (s.offerPart now off) + now.length ≤ restPot s := by
  unfold State.offerPart
  dsimp only
  have hsum := (hp.map Made.weight).sum_eq
  rw [List.map_append, List.sum_append] at hsum
  have h1 := restPot_outbox s now
  have h2 := flush_lowers { s with outbox := now }
  generalize State.flush { s with outbox := now } = u at h2 ⊢
  have h3 := restPot_outbox u (off ++ u.outbox.filter (fun m => !off.contains m))
  have h4 : ((u.outbox.filter (fun m => !off.contains m)).map Made.weight).sum ≤ outPot u :=
    List.Sublist.sum_le_sum ((List.filter_sublist).map _) (fun _ _ => Nat.zero_le _)
  rw [List.map_append, List.sum_append] at h3
  have e1 : outPot s = (s.outbox.map Made.weight).sum := rfl
  dsimp only at h2
  omega

theorem offerParted_lowers (s : State) (may : Made → Bool) : restPot (s.offerParted may) + (s.parted may).1.length ≤ restPot s := by
  obtain ⟨d1, d2⟩ := draw_pot s
  have h := offerPart_lowers s.draw.2 (s.parted may).1 (s.parted may).2 (d2.symm ▸ partMade_perm may s.draw.1 s.outbox)
  unfold State.offerParted
  omega

/-! What a flush leaves of the link. -/

theorem taking_make (s : State) (m : Made) : (s.make m).link = s.link := by unfold State.make; split <;> rfl

theorem taking_setHolds (s : State) (l : Lane) (h : HoldSet) : (s.setHolds l h).link = s.link := by
  unfold State.setHolds; split
  · rfl
  · exact taking_make _ _

theorem taking_voucherQueued (s : State) (l : Lane) : (s.voucherQueued l).link = s.link := by
  unfold State.voucherQueued; exact taking_setHolds _ _ _

theorem taking_codeQueryQueued (s : State) (l : Lane) : (s.codeQueryQueued l).link = s.link := rfl

theorem taking_ownersAct (l : List Made) (s : State) : (l.foldl State.ownerActs s).link = s.link := by
  induction l generalizing s with
  | nil => rfl
  | cons m l ih =>
    refine (ih _).trans ?_
    unfold State.ownerActs
    split
    · split
      · rfl
      · exact taking_voucherQueued s _
    · split <;> rfl
    · rfl

theorem offers_slots (g : Made → Report) (l : List Made) (k : LinkPort) :
    (l.foldl (fun k m => k.offer (g m)) k).replySlot = k.replySlot ∧
      (l.foldl (fun k m => k.offer (g m)) k).transmitter = k.transmitter := by
  induction l generalizing k with
  | nil => exact ⟨rfl, rfl⟩
  | cons m l ih =>
    have : (k.offer (g m)).replySlot = k.replySlot ∧ (k.offer (g m)).transmitter = k.transmitter := by
      unfold LinkPort.offer
      repeat' split
      all_goals exact ⟨rfl, rfl⟩
    exact ⟨(ih _).1.trans this.1, (ih _).2.trans this.2⟩

/-- Offering all or a part of the reports leaves the intake buffer, the reply slot and the transmitter alone. -/
theorem flush_taking (s : State) : s.flush.link.intake = s.link.intake ∧ s.flush.link.replySlot = s.link.replySlot ∧
    s.flush.link.transmitter = s.link.transmitter := by
  have hl : (s.arranged s.outbox).2.link = s.link := by
    rcases arranged_state s s.outbox with h | h <;> rw [h]
    unfold State.draw; split <;> rfl
  unfold State.flush
  dsimp only
  rw [taking_ownersAct]
  dsimp only
  rw [(offers_slots _ _ _).1, (offers_slots _ _ _).2, (offers_growth _ _ _).2.1, hl]
  exact ⟨rfl, rfl, rfl⟩

theorem offerParted_taking (s : State) (may : Made → Bool) : (s.offerParted may).link.intake = s.link.intake ∧
    (s.offerParted may).link.replySlot = s.link.replySlot ∧ (s.offerParted may).link.transmitter = s.link.transmitter := by
  have hd : s.draw.2.link = s.link := by unfold State.draw; split <;> rfl
  obtain ⟨h1, h2, h3⟩ := flush_taking { s.draw.2 with outbox := (s.parted may).1 }
  exact ⟨h1.trans (congrArg _ hd), h2.trans (congrArg _ hd), h3.trans (congrArg _ hd)⟩

/-- Where a command is still to be taken, the way to it goes on: the command, or the reply before it. -/
theorem towardsTaking_lowers (s : State) (h : s.takesReporting = true) : restPot s.towardsTaking < restPot s := by
  unfold State.towardsTaking
  have hi : s.link.intake ≠ [] := by
    intro e; unfold State.takesReporting at h; rw [e] at h; simp at h
  cases ht : s.dueTake with
  | some t => exact dueTake_lowers ht
  | none =>
    cases hr : s.link.replySlot with
    | none =>
      unfold State.dueTake at ht
      rw [if_pos (by simp [hr, hi])] at ht
      cases ht
    | some f =>
      cases hx : s.link.transmitter with
      | some g => unfold State.takesReporting at h; rw [hr, hx] at h; simp at h
      | none =>
        cases hb : s.dueBegin with
        | some t => exact dueBegin_lowers hb
        | none => simp [State.dueBegin, LinkPort.begin?, hr, hx] at hb

theorem offerBeforeTaking_lowers (s : State) (h : s.takesReporting = true) : restPot s.offerBeforeTaking < restPot s := by
  have h1 : restPot s.offerSome + (s.parted Made.any).1.length ≤ restPot s := offerParted_lowers s Made.any
  unfold State.offerBeforeTaking
  split
  · rename_i hv
    have : 0 < (s.parted Made.any).1.length := by
      cases e : (s.parted Made.any).1 with
      | nil => rw [e] at hv; cases hv
      | cons m l => simp
    omega
  · have ht : s.offerSome.takesReporting = true := by
      obtain ⟨e1, e2, e3⟩ := offerParted_taking s Made.any
      unfold State.takesReporting State.offerSome at *
      rw [e1, e2, e3]
      exact h
    have := towardsTaking_lowers _ ht
    omega

theorem dueFlush_lowers {s t : State} (h : s.dueFlush = some t) : restPot t < restPot s := by
  unfold State.dueFlush at h
  split at h
  · cases h
  · rename_i he
    split at h
    · rename_i ht
      cases h
      exact offerBeforeTaking_lowers s ht
    · split at h
      · rename_i hv
        cases h
        have h1 : restPot s.offerVouchers + (s.parted Made.plain).1.length ≤ restPot s := offerParted_lowers s Made.plain
        have h2 : 0 < (s.parted Made.plain).1.length := List.length_pos_of_ne_nil (partMade_voucher s.draw.1 s.outbox hv)
        omega
      · cases h
        have h1 := flush_lowers s
        cases ho : s.outbox with
        | nil => simp [ho] at he
        | cons a l => rw [ho] at h1; simp only [List.length_cons] at h1; omega

/-! ### The loop -/

/-- What `fire` answers is one of the twelve rules. -/
theorem fire_cases {s t : State} (h : fire s = some t) :
    s.dueHeldOut = some t ∨ s.dueConveyorHold = some t ∨ s.dueWake = some t ∨ s.dueCompacting = some t ∨ s.dueVoucher = some t ∨
      s.dueGrant = some t ∨ s.dueClosed = some t ∨ s.dueAdmission = some t ∨ s.dueConveyor = some t ∨ s.dueFlush = some t ∨
      s.dueTake = some t ∨ s.dueBegin = some t := by
  unfold fire rules cornerRules at h
  obtain ⟨r, hr, hrt⟩ := List.exists_of_findSome?_eq_some h
  simp only [List.cons_append, List.nil_append, List.mem_cons, List.not_mem_nil, or_false] at hr
  rcases hr with rfl | rfl | rfl | rfl | rfl | rfl | rfl | rfl | rfl | rfl | rfl | rfl <;> simp [hrt]

/-- Nothing is due exactly when none of the twelve rules is. -/
theorem fire_none_iff (s : State) :
    fire s = none ↔ s.dueHeldOut = none ∧ s.dueConveyorHold = none ∧ s.dueWake = none ∧ s.dueCompacting = none ∧
      s.dueVoucher = none ∧ s.dueGrant = none ∧ s.dueClosed = none ∧ s.dueAdmission = none ∧ s.dueConveyor = none ∧
      s.dueFlush = none ∧ s.dueTake = none ∧ s.dueBegin = none := by
  simp [fire, rules, cornerRules, List.findSome?_eq_none_iff]

/-- A rule of the corner is taken before any other. -/
theorem fire_of_fireCorner {s t : State} (h : fireCorner s = some t) : fire s = some t := by
  unfold fire rules
  rw [List.findSome?_append]
  show (fireCorner s).or _ = _
  rw [h]
  rfl

theorem fire_lowers {s t : State} (h : fire s = some t) : restPot t < restPot s := by
  rcases fire_cases h with h | h | h | h | h | h | h | h | h | h | h | h
  · exact dueHeldOut_lowers h
  · exact dueConveyorHold_lowers h
  · exact dueWake_lowers h
  · exact dueCompacting_lowers h
  · exact dueVoucher_lowers h
  · exact dueGrant_lowers h
  · exact dueClosed_lowers h
  · exact dueAdmission_lowers h
  · exact dueConveyor_lowers h
  · exact dueFlush_lowers h
  · exact dueTake_lowers h
  · exact dueBegin_lowers h

theorem settleLoop_rests (n : Nat) (s : State) (h : restPot s ≤ n) : fire (settleLoop n s) = none := by
  induction n generalizing s with
  | zero =>
    unfold settleLoop
    cases hf : fire s with
    | none => rfl
    | some t => have := fire_lowers hf; omega
  | succ n ih =>
    unfold settleLoop
    cases hf : fire s with
    | none => exact hf
    | some t => have := fire_lowers hf; exact ih t (by omega)

/-- Whatever each rule keeps, the loop keeps. -/
theorem settleLoop_induct {P : State → Prop} (h : ∀ s t, fire s = some t → P s → P t) (n : Nat) (s : State) (hs : P s) :
    P (settleLoop n s) := by
  induction n generalizing s with
  | zero => exact hs
  | succ n ih =>
    unfold settleLoop
    cases hf : fire s with
    | none => exact hs
    | some t => exact ih t (h s t hf hs)

/-- Where nothing is due, the loop changes nothing. -/
theorem settleLoop_of_none (n : Nat) (s : State) (h : fire s = none) : settleLoop n s = s := by
  cases n with
  | zero => rfl
  | succ n => unfold settleLoop; rw [h]

/-- Between two parts of an event no rule of the corner stays due. -/
theorem cornerLoop_rests (s : State) : fireCorner (cornerLoop (settleBound s) s) = none := by
  suffices h : ∀ (n : Nat) (s : State), restPot s ≤ n → fireCorner (cornerLoop n s) = none from h _ s (restPot_le_bound s)
  intro n
  induction n with
  | zero =>
    intro s h
    unfold cornerLoop
    cases hf : fireCorner s with
    | none => rfl
    | some t => have := fire_lowers (fire_of_fireCorner hf); omega
  | succ n ih =>
    intro s h
    unfold cornerLoop
    cases hf : fireCorner s with
    | none => exact hf
    | some t => have := fire_lowers (fire_of_fireCorner hf); exact ih t (by omega)

/-- Whatever each rule of the corner keeps, their loop keeps. -/
theorem cornerLoop_induct {P : State → Prop} (h : ∀ s t, fireCorner s = some t → P s → P t) (n : Nat) (s : State) (hs : P s) :
    P (cornerLoop n s) := by
  induction n generalizing s with
  | zero => exact hs
  | succ n ih =>
    unfold cornerLoop
    cases hf : fireCorner s with
    | none => exact hs
    | some t => exact ih t (h s t hf hs)

/-- Whatever each rule of the corner, an offering and the shutters keep, a part of an event keeps. -/
theorem settlePart_induct {P : State → Prop} (h : ∀ s t, fireCorner s = some t → P s → P t) (ho : ∀ s, P s → P s.offerSome)
    (hs : ∀ s, P s → P s.syncShutters) (n : Nat) (s : State) (h0 : P s) : P (s.settlePart n) := by
  induction n generalizing s with
  | zero => exact h0
  | succ n ih =>
    unfold State.settlePart
    dsimp only
    have hc := ho _ (cornerLoop_induct h (settleBound s) s h0)
    split
    · exact ih _ hc
    · exact hs _ hc

/-! ### The event -/

theorem syncShutters_lane (s : State) (l : Lane) : s.syncShutters.lane l = (s.lane l).syncShutter := by
  simp [State.syncShutters, State.lane]

theorem syncShutters_findLane (s : State) (p : LaneUnit → Bool) (hp : ∀ u : LaneUnit, p u.syncShutter = p u) :
    s.syncShutters.findLane p = s.findLane p := by
  unfold State.findLane
  congr 1
  funext l
  rw [syncShutters_lane, hp]

/-- The shutters decide nothing of what is due. -/
theorem syncShutters_rests (s : State) (h : fire s = none) : fire s.syncShutters = none := by
  rw [fire_none_iff] at h ⊢
  obtain ⟨h1, h2, h3, h4, h5, h6, h7, h8, h9, h10, h11, h12⟩ := h
  simp only [State.dueConveyorHold, State.dueWake, State.dueVoucher, State.dueClosed, State.dueAdmission, Option.map_eq_none_iff]
    at h2 h3 h5 h7 h8 ⊢
  refine ⟨?_, ?_, ?_, ?_, ?_, ?_, ?_, ?_, ?_, ?_, ?_, ?_⟩
  · revert h1; unfold State.dueHeldOut; split <;> intro h1
    · cases h1
    · rename_i h; exact if_neg h
  · exact (syncShutters_findLane s _ (fun _ => rfl)).trans h2
  · exact (syncShutters_findLane s _ (fun _ => rfl)).trans h3
  · simp only [State.dueCompacting, Option.map_eq_none_iff] at h4 ⊢; exact h4
  · exact (syncShutters_findLane s _ (fun _ => rfl)).trans h5
  · revert h6; unfold State.dueGrant; split <;> intro h6
    · cases h6
    · rename_i h; exact if_neg h
  · exact (syncShutters_findLane s _ (fun _ => rfl)).trans h7
  · exact (syncShutters_findLane s _ (fun _ => rfl)).trans h8
  · revert h9
    have e1 : s.syncShutters.conveyor = s.conveyor := rfl
    have e2 : s.syncShutters.workPresent = s.workPresent := rfl
    unfold State.dueConveyor
    rw [e1, e2]
    split
    · split
      · intro h; cases h
      · exact fun _ => rfl
    · split
      · exact fun _ => rfl
      · intro h; cases h
    · split
      · intro h; cases h
      · exact fun _ => rfl
    all_goals exact fun _ => rfl
  · have : s.outbox.isEmpty = true := by
      revert h10; unfold State.dueFlush
      split
      · exact fun _ => ‹_›
      · split
        · intro h; cases h
        · split <;> intro h <;> cases h
    exact if_pos this
  · revert h11; unfold State.dueTake; split <;> intro h11
    · cases h11
    · rename_i h; exact if_neg h
  · unfold State.dueBegin at h12 ⊢
    simp only [Option.map_eq_none_iff] at h12 ⊢
    exact h12

/-- After an event nothing is due. -/
theorem settle_rests (s : State) : fire (settle s) = none :=
  syncShutters_rests _ (settleLoop_rests _ s (restPot_le_bound s))

/-- Whatever each rule and the shutters keep, an event keeps. -/
theorem settle_induct {P : State → Prop} (h : ∀ s t, fire s = some t → P s → P t) (hs : ∀ s, P s → P s.syncShutters) (s : State)
    (h0 : P s) : P (settle s) := hs _ (settleLoop_induct h _ s h0)

/-- The shutters follow once: a second time changes nothing. -/
theorem syncShutters_idem (s : State) : s.syncShutters.syncShutters = s.syncShutters := by
  have h : ∀ u : LaneUnit, u.syncShutter.syncShutter = u.syncShutter := by
    intro u
    have e : u.syncShutter.shutterCommand = u.shutterCommand := rfl
    have : (u.syncShutter.shutterCommand || (u.syncShutter.shutter && u.syncShutter.mouth.settled)) = u.syncShutter.shutter := by
      rw [e]
      show (u.shutterCommand || ((u.shutterCommand || (u.shutter && u.mouth.settled)) && u.mouth.settled)) =
        (u.shutterCommand || (u.shutter && u.mouth.settled))
      cases u.shutterCommand <;> cases u.shutter <;> cases u.mouth.settled <;> rfl
    show ({ u.syncShutter with
      shutter := u.syncShutter.shutterCommand || (u.syncShutter.shutter && u.syncShutter.mouth.settled) } : LaneUnit) = _
    rw [this]
  unfold State.syncShutters
  simp only [Vector.map_map]
  congr 1
  apply Vector.map_congr_left
  intro u _
  exact h u

theorem settle_syncShutters (s : State) : (settle s).syncShutters = settle s := syncShutters_idem _

/-- A state that is at rest stays as it is. -/
theorem settle_of_rest (s : State) (h : fire s = none) (h2 : s.syncShutters = s) : settle s = s := by
  unfold settle
  rw [settleLoop_of_none _ _ h, h2]

/-- Any number of turns that suffices for the loop gives the same state. -/
theorem settleLoop_enough (n m : Nat) (s : State) (hn : restPot s ≤ n) (hm : restPot s ≤ m) : settleLoop n s = settleLoop m s := by
  induction n generalizing m s with
  | zero =>
    have hf : fire s = none := by
      cases hf : fire s with
      | none => rfl
      | some t => have := fire_lowers hf; omega
    rw [settleLoop_of_none 0 s hf, settleLoop_of_none m s hf]
  | succ n ih =>
    cases hf : fire s with
    | none => rw [settleLoop_of_none _ s hf, settleLoop_of_none m s hf]
    | some t =>
      have h := fire_lowers hf
      cases m with
      | zero => omega
      | succ m =>
        have e : ∀ k, settleLoop (k + 1) s = settleLoop k t := fun k => by rw [settleLoop]; simp only [hf]
        rw [e n, e m]
        exact ih m t (by omega) (by omega)

/-- An event's end goes on from what its first rule gives. -/
theorem settle_fire {s t : State} (h : fire s = some t) : settle s = settle t := by
  unfold settle
  have h1 := restPot_le_bound s
  have h2 := restPot_le_bound t
  have h3 := fire_lowers h
  have e : settleLoop (settleBound s) s = settleLoop (settleBound t) t := by
    cases hb : settleBound s with
    | zero => omega
    | succ n =>
      have e1 : settleLoop (n + 1) s = settleLoop n t := by rw [settleLoop]; simp only [h]
      rw [e1]
      exact settleLoop_enough _ _ _ (by omega) (by omega)
  rw [e]

end Sys2Proof.Machine
end

