-- ==== Sys2Proof/Laws/Frame.lean ====
section
/-! SUPPORT. What the end of an event leaves alone: the corner's tables, ring, counters and receiver, the calibration and inputs of every
lane, a lane that nothing moves, and the bins that do not start to compact (`settle_core`, `settle_laneKept`, `settle_still`,
`settle_bin`). A command that waits in the intake buffer must not be taken meanwhile (`State.NoTake`). -/

namespace Sys2Proof.Machine

/-! ### No command is taken -/

/-- No frame will be taken at the end of the event: none waits, or the reply slot is occupied behind a frame being sent. -/
def State.NoTake (s : State) : Prop :=
  s.link.intake = [] ∨ (s.link.replySlot.isSome = true ∧ s.link.transmitter.isSome = true)

/-- The parts of the link that decide whether a command is taken. -/
def LinkPort.taking (k : LinkPort) : List Frame × Option Frame × Option Frame := (k.intake, k.replySlot, k.transmitter)

theorem noTake_of_taking {s t : State} (h : s.NoTake) (e : t.link.taking = s.link.taking) : t.NoTake := by
  simp only [LinkPort.taking, Prod.mk.injEq] at e
  unfold State.NoTake at h ⊢
  rw [e.1, e.2.1, e.2.2]
  exact h

/-- Where no command is to be taken, none that reports is about to be. -/
theorem takesReporting_noTake {s : State} (h : s.NoTake) : s.takesReporting = false := by
  unfold State.takesReporting
  rcases h with h | ⟨h, h'⟩
  · simp [h]
  · cases e : s.link.replySlot with
    | none => rw [e] at h; cases h
    | some f =>
      cases e' : s.link.transmitter with
      | none => rw [e'] at h'; cases h'
      | some g => simp

/-- At rest no command is to be taken. -/
theorem noTake_of_rest (s : State) (h : fire s = none) : s.NoTake := by
  obtain ⟨-, -, -, -, -, -, -, -, -, -, h11, h12⟩ := (fire_none_iff s).1 h
  unfold State.dueTake at h11
  unfold State.dueBegin at h12
  simp only [Option.map_eq_none_iff] at h12
  by_cases hi : s.link.intake = []
  · exact Or.inl hi
  · right
    cases hs : s.link.replySlot with
    | none =>
      rw [if_pos (by simp [hs, hi])] at h11
      cases h11
    | some f =>
      refine ⟨rfl, ?_⟩
      cases ht : s.link.transmitter with
      | none => unfold LinkPort.begin? at h12; rw [ht, hs] at h12; cases h12
      | some g => rfl

/-! ### The parts kept -/

theorem bodyPart_state {u v : LaneUnit} (h : u.bodyPart = v.bodyPart) : u.state = v.state :=
  show u.bodyPart.state = v.bodyPart.state from congrArg (fun w : LaneUnit => w.state) h

theorem still_of_body {u v : LaneUnit} (h : u.bodyPart = v.bodyPart) : u.still = v.still := by
  have h1 := bodyPart_state h
  have h2 : u.mouth = v.mouth := show u.bodyPart.mouth = v.bodyPart.mouth from congrArg (fun w : LaneUnit => w.mouth) h
  have h3 : u.calRunning = v.calRunning := show u.bodyPart.calRunning = v.bodyPart.calRunning from congrArg (fun w : LaneUnit => w.calRunning) h
  have h4 : u.closePending = v.closePending := show u.bodyPart.closePending = v.bodyPart.closePending from congrArg (fun w : LaneUnit => w.closePending) h
  have h5 : u.record = v.record := show u.bodyPart.record = v.bodyPart.record from congrArg (fun w : LaneUnit => w.record) h
  simp only [LaneUnit.still, LaneUnit.isOpen, h1, h2, h3, h4, h5]

theorem Keeps.refl (s : State) : Keeps s s := ⟨rfl, fun _ => rfl, fun _ _ _ => rfl, fun _ h => h, fun _ _ => rfl⟩

theorem Keeps.trans {s t u : State} (h : Keeps s t) (h' : Keeps t u) : Keeps s u where
  core := h'.core.trans h.core
  lane l := (h'.lane l).trans (h.lane l)
  body l hs hr :=
    (h'.body l ((still_of_body (h.body l hs hr)).trans hs) (fun hm => hr (h.requests l hm))).trans (h.body l hs hr)
  requests l hl := h.requests l (h'.requests l hl)
  bin b hb := by
    have := h.bin b hb
    exact (h'.bin b (by rw [this]; exact hb)).trans this

/-- A change that touches neither lanes, list nor bins. -/
theorem Keeps.of_eq {s t : State} (hc : t.corePart = s.corePart) (hl : t.lanes = s.lanes) (hr : t.requests = s.requests)
    (hb : t.bins = s.bins) : Keeps s t where
  core := hc
  lane l := by simp only [State.lane, hl]
  body l _ _ := by simp only [State.lane, hl]
  requests l h := by rw [← hr]; exact h
  bin b _ := by simp only [State.bin, hb]

theorem keeps_modLane (s : State) (l : Lane) (f : LaneUnit → LaneUnit) (hk : ∀ u, (f u).keptPart = u.keptPart)
    (hb : (s.lane l).still = true → l ∉ s.requests → (f (s.lane l)).bodyPart = (s.lane l).bodyPart) : Keeps s (s.modLane l f) where
  core := rfl
  lane l' := by
    rw [State.modLane_lane]
    split
    · rename_i h; rw [h]; exact hk _
    · rfl
  body l' hs hr := by
    rw [State.modLane_lane]
    split
    · rename_i h; subst h; exact hb hs hr
    · rfl
  requests _ h := h
  bin _ _ := rfl

theorem keeps_make (s : State) (m : Made) : Keeps s (s.make m) := by
  unfold State.make
  split
  · exact Keeps.refl s
  · exact Keeps.of_eq rfl rfl rfl rfl

theorem keeps_noteLane (s : State) (l : Lane) : Keeps s (s.noteLane l) := keeps_make s _

theorem keeps_noteConveyor (s : State) : Keeps s s.noteConveyor := keeps_make s _

theorem keeps_setHolds (s : State) (l : Lane) (h : HoldSet) : Keeps s (s.setHolds l h) := by
  unfold State.setHolds
  split
  · exact Keeps.refl s
  · refine Keeps.trans ?_ (keeps_noteLane _ l)
    exact keeps_modLane s l _ (fun _ => rfl) (fun _ _ => rfl)

/-- A change of a lane that is not still, and then of its state. -/
theorem keeps_move (s : State) (l : Lane) (f : LaneUnit → LaneUnit) (t : LaneState) (hk : ∀ u, (f u).keptPart = u.keptPart)
    (hn : (s.lane l).still = false ∨ l ∈ s.requests) : Keeps s ((s.modLane l f).setLaneState l t) := by
  have h0 : ∀ g : LaneUnit → LaneUnit, (∀ u, (g u).keptPart = u.keptPart) → Keeps s (s.modLane l g) := by
    intro g hg
    refine keeps_modLane s l g hg (fun hs hr => ?_)
    rcases hn with h | h
    · rw [h] at hs; cases hs
    · exact absurd h hr
  unfold State.setLaneState
  split
  · exact h0 f hk
  · have e : (s.modLane l f).modLane l (fun u => { u with state := t }) = s.modLane l (fun u => { f u with state := t }) := by
      unfold State.modLane State.setLane
      simp [State.lane]
    rw [e]
    refine Keeps.trans ?_ (keeps_noteLane _ l)
    exact h0 (fun u => { f u with state := t }) (fun u => Eq.trans rfl (hk u))

theorem powerConverter_kept (u : LaneUnit) : u.powerConverter.keptPart = u.keptPart := by
  unfold LaneUnit.powerConverter; split <;> rfl

theorem abandonAutoZero_kept (u : LaneUnit) : u.abandonAutoZero.keptPart = u.keptPart := by
  unfold LaneUnit.abandonAutoZero; split <;> rfl

theorem keeps_voucherQueued (s : State) (l : Lane) : Keeps s (s.voucherQueued l) := by
  unfold State.voucherQueued
  refine Keeps.trans ?_ (keeps_setHolds _ l _)
  exact keeps_modLane s l _ (fun _ => rfl) (fun _ _ => rfl)

theorem keeps_codeQueryQueued (s : State) (l : Lane) : Keeps s (s.codeQueryQueued l) := by
  unfold State.codeQueryQueued
  refine keeps_modLane s l _ (fun u => ?_) (fun _ _ => ?_)
  · split <;> rfl
  · split <;> rfl

theorem keeps_ownersAct (l : List Made) (s : State) : Keeps s (l.foldl State.ownerActs s) := by
  induction l generalizing s with
  | nil => exact Keeps.refl s
  | cons m l ih =>
    refine Keeps.trans ?_ (ih _)
    unfold State.ownerActs
    split
    · split
      · exact Keeps.refl s
      · exact keeps_voucherQueued s _
    · split
      · exact Keeps.refl s
      · exact keeps_codeQueryQueued s _
    · exact Keeps.refl s

/-- A draw changes the choices alone. -/
theorem draw_same (s : State) : s.draw.2.corePart = s.corePart ∧ s.draw.2.lanes = s.lanes ∧ s.draw.2.requests = s.requests ∧
    s.draw.2.bins = s.bins ∧ s.draw.2.link = s.link := by
  unfold State.draw; split <;> exact ⟨rfl, rfl, rfl, rfl, rfl⟩

theorem arranged_same {α : Type} (s : State) (l : List α) : (s.arranged l).2.corePart = s.corePart ∧
    (s.arranged l).2.lanes = s.lanes ∧ (s.arranged l).2.requests = s.requests ∧ (s.arranged l).2.bins = s.bins ∧
    (s.arranged l).2.link = s.link := by
  rcases arranged_state s l with h | h
  · rw [h]; exact ⟨rfl, rfl, rfl, rfl, rfl⟩
  · rw [h]; exact draw_same s

/-- An offer touches the queue, the held-out reports and LOST alone. -/
theorem offer_same (k : LinkPort) (r : Report) : (k.offer r).taking = k.taking ∧ (k.offer r).receiver = k.receiver ∧
    (k.offer r).frameErrors = k.frameErrors ∧ (k.offer r).overruns = k.overruns ∧ (k.offer r).state = k.state ∧
    (k.offer r).supervision = k.supervision := by
  unfold LinkPort.offer
  repeat' split
  all_goals exact ⟨rfl, rfl, rfl, rfl, rfl, rfl⟩

theorem offers_same (g : Made → Report) (l : List Made) (k : LinkPort) :
    (l.foldl (fun k m => k.offer (g m)) k).taking = k.taking ∧ (l.foldl (fun k m => k.offer (g m)) k).receiver = k.receiver ∧
    (l.foldl (fun k m => k.offer (g m)) k).frameErrors = k.frameErrors ∧
    (l.foldl (fun k m => k.offer (g m)) k).overruns = k.overruns ∧ (l.foldl (fun k m => k.offer (g m)) k).state = k.state ∧
    (l.foldl (fun k m => k.offer (g m)) k).supervision = k.supervision := by
  induction l generalizing k with
  | nil => exact ⟨rfl, rfl, rfl, rfl, rfl, rfl⟩
  | cons m l ih =>
    obtain ⟨a1, a2, a3, a4, a5, a6⟩ := ih (k.offer (g m))
    obtain ⟨b1, b2, b3, b4, b5, b6⟩ := offer_same k (g m)
    exact ⟨a1.trans b1, a2.trans b2, a3.trans b3, a4.trans b4, a5.trans b5, a6.trans b6⟩

/-- Equal links and otherwise equal cores. -/
theorem corePart_link (s : State) (k : LinkPort) (o : List Made) (h1 : k.receiver = s.link.receiver)
    (h2 : k.frameErrors = s.link.frameErrors) (h3 : k.overruns = s.link.overruns) (h4 : k.state = s.link.state)
    (h5 : k.supervision = s.link.supervision) : ({ s with link := k, outbox := o } : State).corePart = s.corePart := by
  unfold State.corePart
  simp only [h1, h2, h3, h4, h5]

theorem keeps_flush (s : State) : Keeps s s.flush := by
  unfold State.flush
  dsimp only
  obtain ⟨a1, a2, a3, a4, a5⟩ := arranged_same s s.outbox
  obtain ⟨-, b2, b3, b4, b5, b6⟩ := offers_same (s.arranged s.outbox).2.reportOf (s.arranged s.outbox).1 (s.arranged s.outbox).2.link
  refine Keeps.trans ?_ (keeps_ownersAct _ _)
  exact Keeps.of_eq ((corePart_link _ _ _ b2 b3 b4 b5 b6).trans a1) a2 a3 a4

theorem keeps_offerPart (s : State) (now off : List Made) : Keeps s (s.offerPart now off) := by
  unfold State.offerPart
  refine Keeps.trans (Keeps.of_eq (t := { s with outbox := now }) rfl rfl rfl rfl) ?_
  exact Keeps.trans (keeps_flush _) (Keeps.of_eq rfl rfl rfl rfl)

theorem keeps_draw (s : State) : Keeps s s.draw.2 := by
  obtain ⟨a1, a2, a3, a4, -⟩ := draw_same s
  exact Keeps.of_eq a1 a2 a3 a4

theorem keeps_offerParted (s : State) (may : Made → Bool) : Keeps s (s.offerParted may) := (keeps_draw s).trans (keeps_offerPart _ _ _)

theorem keeps_heldOutEnters (s : State) : Keeps s s.heldOutEnters := by
  unfold State.heldOutEnters
  split
  · exact Keeps.refl s
  · dsimp only
    split
    · refine Keeps.trans ?_ (keeps_voucherQueued _ _)
      exact Keeps.of_eq rfl rfl rfl rfl
    · refine Keeps.trans ?_ (keeps_codeQueryQueued _ _)
      exact Keeps.of_eq rfl rfl rfl rfl
    · exact Keeps.of_eq rfl rfl rfl rfl

theorem keeps_setConveyor (s : State) (c : Conveyor) : Keeps s (s.setConveyor c) := by
  unfold State.setConveyor
  split
  · exact Keeps.refl s
  · refine Keeps.trans ?_ (keeps_noteConveyor _)
    exact Keeps.of_eq rfl rfl rfl rfl

theorem keeps_grant (s : State) : Keeps s s.grant := by
  unfold State.grant
  split
  · rename_i l rest hr
    have hin : l ∈ s.requests := by rw [hr]; exact List.mem_cons_self
    refine ⟨?_, ?_, ?_, ?_, ?_⟩
    all_goals dsimp only
    all_goals generalize hp : (Pocket.granted l (s.lane l).config.handoffTime) = p
    · unfold State.setLaneState
      split
      · rfl
      · unfold State.noteLane State.make; split <;> rfl
    all_goals
      have e : ({ s with requests := rest, pocket := p } : State).lane = s.lane := rfl
    · intro l'
      unfold State.setLaneState
      split
      · rw [State.modLane_lane]; split
        · rename_i h; rw [h]; rfl
        · rfl
      · rw [show ∀ x : State, (x.noteLane l).lane l' = x.lane l' from fun x => by unfold State.noteLane State.make; split <;> rfl]
        rw [State.modLane_lane]
        split
        · rename_i h; rw [h, State.modLane_lane_self]; rfl
        · rename_i h; rw [State.modLane_lane, if_neg h]; rfl
    · intro l' _ hr'
      have hne : ¬ l = l' := fun h => hr' (h ▸ hin)
      unfold State.setLaneState
      split
      · rw [State.modLane_lane, if_neg hne]; rfl
      · rw [show ∀ x : State, (x.noteLane l).lane l' = x.lane l' from fun x => by unfold State.noteLane State.make; split <;> rfl]
        rw [State.modLane_lane, if_neg hne, State.modLane_lane, if_neg hne]; rfl
    · intro l' h
      have e2 : ∀ x : State, (x.setLaneState l .handoff).requests = x.requests := by
        intro x; unfold State.setLaneState; split
        · rfl
        · unfold State.noteLane State.make; split <;> rfl
      rw [e2] at h
      rw [hr]
      exact List.mem_cons_of_mem _ h
    · intro b _
      unfold State.setLaneState
      split
      · rfl
      · unfold State.noteLane State.make; split <;> rfl
  · exact Keeps.refl s

theorem keeps_noteBin (s : State) (b : BinId) (e : BinEvent) : Keeps s (s.noteBin b e) := by
  obtain ⟨a1, a2, a3, a4, a5⟩ := draw_same s
  unfold State.noteBin
  split
  · exact Keeps.of_eq rfl rfl rfl rfl
  · split
    · exact Keeps.refl s
    · split
      · exact Keeps.of_eq rfl rfl rfl rfl
      · exact Keeps.of_eq a1 a2 a3 a4

theorem keeps_startCompacting (s : State) (b : BinId) (h : (s.bin b).compactionDue = true) : Keeps s (s.startCompacting b) := by
  simp only [BinUnit.compactionDue, Bool.and_eq_true, beq_iff_eq] at h
  unfold State.startCompacting State.binTo State.binEnters
  have h0 : Keeps s (s.modBin b (fun u => u.entering .compacting none)) := by
    refine ⟨rfl, fun _ => rfl, fun _ _ _ => rfl, fun _ h => h, fun b' hb' => ?_⟩
    rw [State.modBin_bin]
    split
    · rename_i hbb; rw [← hbb] at hb'; exact absurd h.1 hb'
    · rfl
  dsimp only
  split
  · exact h0.trans (keeps_noteBin _ b _)
  · exact h0

/-- What each rule of an event's end keeps, where no command is taken. -/
theorem fire_keeps {s t : State} (h : fire s = some t) (hn : s.NoTake) : Keeps s t := by
  rcases fire_cases h with h | h | h | h | h | h | h | h | h | h | h | h
  · unfold State.dueHeldOut at h
    split at h
    · cases h; exact keeps_heldOutEnters s
    · cases h
  · simp only [State.dueConveyorHold, Option.map_eq_some_iff] at h
    obtain ⟨l, -, rfl⟩ := h
    exact keeps_setHolds s l _
  · simp only [State.dueWake, Option.map_eq_some_iff] at h
    obtain ⟨l, hl, rfl⟩ := h
    have hp := findLane_some hl
    simp only [LaneUnit.wakesUnheld, Bool.and_eq_true, Bool.or_eq_true, beq_iff_eq] at hp
    refine keeps_move s l _ _ (fun u => ?_) (Or.inl ?_)
    · exact Eq.trans rfl (powerConverter_kept u)
    · unfold LaneUnit.still
      rcases hp.1.1 with h | h <;> simp [h, hp.1.2]
  · simp only [State.dueCompacting, Option.map_eq_some_iff] at h
    obtain ⟨b, hb, rfl⟩ := h
    exact keeps_startCompacting s b (by simpa using List.find?_some hb)
  · simp only [State.dueVoucher, Option.map_eq_some_iff] at h
    obtain ⟨l, -, rfl⟩ := h
    refine Keeps.trans ?_ (keeps_make _ _)
    exact keeps_modLane s l _ (fun _ => rfl) (fun _ _ => rfl)
  · unfold State.dueGrant at h
    split at h
    · cases h; exact keeps_grant s
    · cases h
  · simp only [State.dueClosed, Option.map_eq_some_iff] at h
    obtain ⟨l, hl, rfl⟩ := h
    have hp := findLane_some hl
    simp only [LaneUnit.closes, Bool.and_eq_true, Option.isNone_iff_eq_none, Bool.not_eq_true'] at hp
    refine keeps_move s l _ _ (fun u => rfl) (Or.inl ?_)
    unfold LaneUnit.still
    simp [hp.1.1.1.1, hp.1.1.1.2, hp.1.1.2, hp.2]
  · simp only [State.dueAdmission, Option.map_eq_some_iff] at h
    obtain ⟨l, hl, rfl⟩ := h
    have hp := findLane_some hl
    simp only [LaneUnit.admits, Bool.and_eq_true, beq_iff_eq, Bool.not_eq_true'] at hp
    refine keeps_move s l _ _ (fun u => ?_) (Or.inl ?_)
    · exact Eq.trans rfl (abandonAutoZero_kept u)
    · unfold LaneUnit.still
      simp [hp.1.1.1, hp.1.1.2, hp.2]
  · unfold State.dueConveyor at h
    split at h
    · split at h
      · cases h; exact keeps_setConveyor s _
      · cases h
    · split at h
      · cases h
      · cases h; unfold State.conveyorRunsOut; split
        · exact keeps_setConveyor s _
        · exact Keeps.refl s
    · split at h
      · cases h; unfold State.conveyorResumes; split
        · exact keeps_setConveyor s _
        · exact Keeps.refl s
      · cases h
    all_goals cases h
  · rcases dueFlush_cases h with ⟨rfl, -⟩ | ⟨rfl, -⟩ | ⟨-, ht⟩
    · exact keeps_flush s
    · exact keeps_offerParted s _
    · rw [takesReporting_noTake hn] at ht; cases ht
  · unfold State.dueTake at h
    split at h
    · rename_i hi
      simp only [Bool.and_eq_true, Option.isNone_iff_eq_none, Bool.not_eq_true', List.isEmpty_eq_false_iff] at hi
      rcases hn with hn | hn
      · exact absurd hn hi.2
      · rw [hi.1] at hn; cases hn.1
    · cases h
  · unfold State.dueBegin at h
    simp only [Option.map_eq_some_iff] at h
    obtain ⟨k, hk, rfl⟩ := h
    have : k.receiver = s.link.receiver ∧ k.frameErrors = s.link.frameErrors ∧ k.overruns = s.link.overruns ∧
        k.state = s.link.state ∧ k.supervision = s.link.supervision := by
      unfold LinkPort.begin? at hk
      split at hk <;> cases hk <;> exact ⟨rfl, rfl, rfl, rfl, rfl⟩
    obtain ⟨b2, b3, b4, b5, b6⟩ := this
    exact Keeps.of_eq (corePart_link s k s.outbox b2 b3 b4 b5 b6) rfl rfl rfl

/-! ### No rule brings a command in -/

theorem taking_setLaneState (s : State) (l : Lane) (t : LaneState) : (s.setLaneState l t).link = s.link := by
  unfold State.setLaneState; split
  · rfl
  · exact taking_make _ _

theorem taking_setConveyor (s : State) (c : Conveyor) : (s.setConveyor c).link = s.link := by
  unfold State.setConveyor; split
  · rfl
  · exact taking_make _ _

theorem taking_noteBin (s : State) (b : BinId) (e : BinEvent) : (s.noteBin b e).link = s.link := by
  unfold State.noteBin
  split
  · rfl
  · split
    · rfl
    · split
      · rfl
      · exact (draw_same s).2.2.2.2

theorem taking_flush (s : State) : s.flush.link.taking = s.link.taking := by
  obtain ⟨h1, h2, h3⟩ := flush_taking s
  simp only [LinkPort.taking, h1, h2, h3]

theorem taking_offerParted (s : State) (may : Made → Bool) : (s.offerParted may).link.taking = s.link.taking :=
  (taking_flush _).trans (congrArg LinkPort.taking (draw_same s).2.2.2.2)

theorem taking_heldOutEnters (s : State) : s.heldOutEnters.link.taking = s.link.taking := by
  unfold State.heldOutEnters
  split
  · rfl
  · dsimp only
    split
    · rw [taking_voucherQueued]; rfl
    · rfl
    · rfl

/-- Where no command is to be taken, none is to be taken after any rule. -/
theorem fire_noTake {s t : State} (h : fire s = some t) (hn : s.NoTake) : t.NoTake := by
  rcases fire_cases h with h | h | h | h | h | h | h | h | h | h | h | h
  · unfold State.dueHeldOut at h
    split at h
    · cases h; exact noTake_of_taking hn (taking_heldOutEnters s)
    · cases h
  · simp only [State.dueConveyorHold, Option.map_eq_some_iff] at h
    obtain ⟨l, -, rfl⟩ := h
    exact noTake_of_taking hn (by rw [taking_setHolds])
  · simp only [State.dueWake, Option.map_eq_some_iff] at h
    obtain ⟨l, -, rfl⟩ := h
    exact noTake_of_taking hn (by unfold State.enterReady; rw [taking_setLaneState]; rfl)
  · simp only [State.dueCompacting, Option.map_eq_some_iff] at h
    obtain ⟨b, -, rfl⟩ := h
    refine noTake_of_taking hn ?_
    unfold State.startCompacting State.binTo State.binEnters
    dsimp only
    split
    · rw [taking_noteBin]; rfl
    · rfl
  · simp only [State.dueVoucher, Option.map_eq_some_iff] at h
    obtain ⟨l, -, rfl⟩ := h
    exact noTake_of_taking hn (by unfold State.offerVoucher; rw [taking_make]; rfl)
  · unfold State.dueGrant at h
    split at h
    · cases h
      refine noTake_of_taking hn ?_
      unfold State.grant
      split
      · dsimp only; rw [taking_setLaneState]; rfl
      · rfl
    · cases h
  · simp only [State.dueClosed, Option.map_eq_some_iff] at h
    obtain ⟨l, -, rfl⟩ := h
    exact noTake_of_taking hn (by unfold State.enterClosed; rw [taking_setLaneState]; rfl)
  · simp only [State.dueAdmission, Option.map_eq_some_iff] at h
    obtain ⟨l, -, rfl⟩ := h
    exact noTake_of_taking hn (by unfold State.enterAdmit; rw [taking_setLaneState]; rfl)
  · unfold State.dueConveyor at h
    refine noTake_of_taking hn ?_
    split at h
    · split at h
      · cases h; unfold State.conveyorStarts; rw [taking_setConveyor]
      · cases h
    · split at h
      · cases h
      · cases h; unfold State.conveyorRunsOut; split
        · rw [taking_setConveyor]
        · rfl
    · split at h
      · cases h; unfold State.conveyorResumes; split
        · rw [taking_setConveyor]
        · rfl
      · cases h
    all_goals cases h
  · rcases dueFlush_cases h with ⟨rfl, -⟩ | ⟨rfl, -⟩ | ⟨-, ht⟩
    · exact noTake_of_taking hn (taking_flush s)
    · exact noTake_of_taking hn (taking_offerParted s _)
    · rw [takesReporting_noTake hn] at ht; cases ht
  · unfold State.dueTake at h
    split at h
    · rename_i hi
      simp only [Bool.and_eq_true, Option.isNone_iff_eq_none, Bool.not_eq_true', List.isEmpty_eq_false_iff] at hi
      rcases hn with hn | hn
      · exact absurd hn hi.2
      · rw [hi.1] at hn; cases hn.1
    · cases h
  · unfold State.dueBegin at h
    simp only [Option.map_eq_some_iff] at h
    obtain ⟨k, hk, rfl⟩ := h
    unfold LinkPort.begin? at hk
    rcases hn with hn | hn
    · left
      split at hk <;> cases hk <;> exact hn
    · exfalso
      rw [Option.isSome_iff_exists] at hn
      obtain ⟨hn1, hn2⟩ := hn
      obtain ⟨g, hg⟩ := Option.isSome_iff_exists.1 hn2
      rw [hg] at hk
      cases hk

/-! ### The end of an event -/

theorem syncShutters_keeps (s : State) : Keeps s s.syncShutters where
  core := rfl
  lane l := by rw [syncShutters_lane]; rfl
  body l _ _ := by rw [syncShutters_lane]; rfl
  requests _ h := h
  bin _ _ := rfl

/-- The end of an event keeps what every rule keeps. -/
theorem settle_keeps (s : State) (h : s.NoTake) : Keeps s (settle s) := by
  have : Keeps s (settle s) ∧ (settle s).NoTake := by
    refine settle_induct (P := fun t => Keeps s t ∧ t.NoTake) ?_ ?_ s ⟨Keeps.refl s, h⟩
    · intro t u hf ht
      exact ⟨ht.1.trans (fire_keeps hf ht.2), fire_noTake hf ht.2⟩
    · intro t ht
      exact ⟨ht.1.trans (syncShutters_keeps t), ht.2⟩
  exact this.1

/-- What stands between two parts of an event keeps the same, and brings no command in. -/
theorem settlePart_keeps (n : Nat) (s : State) (h : s.NoTake) : Keeps s (s.settlePart n) ∧ (s.settlePart n).NoTake := by
  refine settlePart_induct (P := fun t => Keeps s t ∧ t.NoTake) ?_ ?_ ?_ n s ⟨Keeps.refl s, h⟩
  · intro t u hf ht
    have hf := fire_of_fireCorner hf
    exact ⟨ht.1.trans (fire_keeps hf ht.2), fire_noTake hf ht.2⟩
  · intro t ht
    exact ⟨ht.1.trans (keeps_offerParted t _), noTake_of_taking ht.2 (taking_offerParted t _)⟩
  · intro t ht
    exact ⟨ht.1.trans (syncShutters_keeps t), ht.2⟩

/-- The end of an event leaves the tables, the ring, the counters, the pocket beam and the receiver alone. -/
theorem settle_core (s : State) (h : s.NoTake) : (settle s).corePart = s.corePart := (settle_keeps s h).core

/-- The end of an event leaves each lane's configuration, calibration, inputs and reader alone. -/
theorem settle_laneKept (s : State) (h : s.NoTake) (l : Lane) : ((settle s).lane l).keptPart = (s.lane l).keptPart :=
  (settle_keeps s h).lane l

/-- The end of an event leaves a still lane that waits in no list where it is. -/
theorem settle_still (s : State) (h : s.NoTake) (l : Lane) (hs : (s.lane l).still = true) (hr : l ∉ s.requests) :
    ((settle s).lane l).bodyPart = (s.lane l).bodyPart := (settle_keeps s h).body l hs hr

/-- The end of an event leaves a bin that is not COMPACT_PENDING alone. -/
theorem settle_bin (s : State) (h : s.NoTake) (b : BinId) (hb : (s.bin b).state ≠ .compactPending) : (settle s).bin b = s.bin b :=
  (settle_keeps s h).bin b hb

end Sys2Proof.Machine
end

