-- ==== Sys2Proof/Laws/Reports.lean ====
section
/-! SUPPORT. The usual end of an event: where no rule of the corner is due, the reports made at the event are offered, the reply or the
first report may begin, the shutters follow, and nothing else happens (`settle_reports`, `settle_told`, `settle_replying`). Whether a rule
of the corner is due is said lane by lane and bin by bin (`State.Quiet`, `quiet_setLane`, `quiet_setBin`). And what a RESTART leaves in the queue
(`keptAtRestart_cases`, `queriesQueued_length`). -/

namespace Sys2Proof.Machine

/-! ### No rule of the corner is due -/

/-- Some rule of the lane is due: a hold cause CONVEYOR to change, a waking, a voucher, a closing or an admission. -/
def LaneUnit.due (held : Bool) (u : LaneUnit) : Bool :=
  (u.isOpen && u.holds.conveyor != held) || u.wakesUnheld || u.voucherDue || u.closes || u.admits

/-- A grant, or a change of the conveyor for the work present, is due. -/
def State.cornerDue (s : State) : Bool :=
  (s.mayGrant && !s.requests.isEmpty) ||
  (match s.conveyor with
    | .stopped => s.workPresent
    | .running _ => !s.workPresent
    | .runOut _ _ => s.workPresent
    | .starting _ | .halted | .fault => false)

/-- None of the nine rules before the offering of reports is due. -/
structure State.Quiet (s : State) : Prop where
  held   : s.link.hasRoom = true → s.link.heldOut = []
  lanes  : ∀ l : Lane, (s.lane l).due s.conveyorHeld = false
  bins   : ∀ b : BinId, (s.bin b).compactionDue = false
  corner : s.cornerDue = false

theorem findLane_none_iff (s : State) (p : LaneUnit → Bool) : s.findLane p = none ↔ ∀ l : Lane, p (s.lane l) = false := by
  unfold State.findLane
  simp only [List.find?_eq_none, Bool.not_eq_true]
  exact ⟨fun h l => h l (by revert l; decide), fun h l _ => h l⟩

theorem quiet_iff (s : State) :
    s.Quiet ↔ s.dueHeldOut = none ∧ s.dueConveyorHold = none ∧ s.dueWake = none ∧ s.dueCompacting = none ∧ s.dueVoucher = none ∧
      s.dueGrant = none ∧ s.dueClosed = none ∧ s.dueAdmission = none ∧ s.dueConveyor = none := by
  have hb : s.dueCompacting = none ↔ ∀ b : BinId, (s.bin b).compactionDue = false := by
    unfold State.dueCompacting
    simp only [Option.map_eq_none_iff, List.find?_eq_none, Bool.not_eq_true]
    exact ⟨fun h b => h b (by revert b; decide), fun h b _ => h b⟩
  have hh : s.dueHeldOut = none ↔ (s.link.hasRoom = true → s.link.heldOut = []) := by
    unfold State.dueHeldOut
    cases s.link.hasRoom <;> simp
  have hc : s.cornerDue = false ↔ s.dueGrant = none ∧ s.dueConveyor = none := by
    unfold State.cornerDue State.dueGrant State.dueConveyor
    rw [Bool.or_eq_false_iff]
    refine and_congr ?_ ?_
    · split <;> simp_all
    · cases s.conveyor <;> simp
  rw [hb, hh]
  simp only [State.dueConveyorHold, State.dueWake, State.dueVoucher, State.dueClosed, State.dueAdmission, Option.map_eq_none_iff,
    findLane_none_iff]
  constructor
  · intro h
    have hl := h.lanes
    simp only [LaneUnit.due, Bool.or_eq_false_iff] at hl
    obtain ⟨c1, c2⟩ := hc.1 h.corner
    exact ⟨h.held, fun l => (hl l).1.1.1.1, fun l => (hl l).1.1.1.2, h.bins, fun l => (hl l).1.1.2, c1, fun l => (hl l).1.2,
      fun l => (hl l).2, c2⟩
  · rintro ⟨h1, h2, h3, h4, h5, h6, h7, h8, h9⟩
    refine ⟨h1, fun l => ?_, h4, hc.2 ⟨h6, h9⟩⟩
    simp only [LaneUnit.due, Bool.or_eq_false_iff]
    exact ⟨⟨⟨⟨h2 l, h3 l⟩, h5 l⟩, h7 l⟩, h8 l⟩

/-- At rest no rule of the corner is due, no report waits to be offered, no command to be taken and no frame to begin. -/
theorem rest_iff (s : State) :
    fire s = none ↔ s.Quiet ∧ s.outbox = [] ∧ (s.link.replySlot = none → s.link.intake = []) ∧ s.link.begin? = none := by
  rw [fire_none_iff, quiet_iff]
  have h10 : s.dueFlush = none ↔ s.outbox = [] := by
    cases e : s.outbox with
    | nil => simp [State.dueFlush, e]
    | cons a l => simp only [State.dueFlush, e]; repeat' split
                  all_goals simp_all
  have h11 : s.dueTake = none ↔ (s.link.replySlot = none → s.link.intake = []) := by
    unfold State.dueTake
    cases s.link.replySlot <;> simp
  have h12 : s.dueBegin = none ↔ s.link.begin? = none := by simp [State.dueBegin]
  rw [h10, h11, h12]
  constructor
  · rintro ⟨h1, h2, h3, h4, h5, h6, h7, h8, h9, h10, h11, h12⟩
    exact ⟨⟨h1, h2, h3, h4, h5, h6, h7, h8, h9⟩, h10, h11, h12⟩
  · rintro ⟨⟨h1, h2, h3, h4, h5, h6, h7, h8, h9⟩, h10, h11, h12⟩
    exact ⟨h1, h2, h3, h4, h5, h6, h7, h8, h9, h10, h11, h12⟩

theorem begin_none_iff (k : LinkPort) : k.begin? = none ↔ (k.transmitter = none → k.replySlot = none ∧ k.queue = []) := by
  unfold LinkPort.begin?
  cases k.transmitter <;> cases k.replySlot <;> cases k.queue <;> simp

/-- Quiet depends on the lanes, the bins, the pocket, the list, the ring, the conveyor, the tray and the queue alone. -/
theorem quiet_congr {s t : State} (h : s.Quiet) (e1 : t.lanes = s.lanes) (e2 : t.bins = s.bins) (e3 : t.requests = s.requests)
    (e4 : t.pocket = s.pocket) (e5 : t.pocketBeam = s.pocketBeam) (e6 : t.conveyor = s.conveyor) (e7 : t.ring = s.ring)
    (e8 : t.trayFull = s.trayFull) (e9 : t.link.hasRoom = true → t.link.heldOut = []) : t.Quiet := by
  have c1 : t.conveyorHeld = s.conveyorHeld := by simp [State.conveyorHeld, e4, e6, e8]
  have c2 : t.workPresent = s.workPresent := by simp [State.workPresent, e3, e4, e7]
  have c3 : t.mayGrant = s.mayGrant := by simp [State.mayGrant, e4, e5, e6, e8]
  refine ⟨e9, fun l => ?_, fun b => ?_, ?_⟩
  · rw [c1]; have := h.lanes l; unfold State.lane at this ⊢; rw [e1]; exact this
  · have := h.bins b; unfold State.bin at this ⊢; rw [e2]; exact this
  · have := h.corner; unfold State.cornerDue at this ⊢; rw [c2, c3, e3, e6]; exact this

theorem lane_setLane (s : State) (l l' : Lane) (u : LaneUnit) : (s.setLane l u).lane l' = if l' = l then u else s.lane l' := by
  unfold State.setLane State.lane
  simp only [Fin.getElem_fin, Vector.getElem_set]
  by_cases h : l' = l
  · subst h; simp
  · have : l.val ≠ l'.val := fun e => h (Fin.ext e.symm)
    simp [h, this]

theorem bin_setBin (s : State) (b b' : BinId) (u : BinUnit) : (s.setBin b u).bin b' = if b' = b then u else s.bin b' := by
  unfold State.setBin State.bin
  simp only [Fin.getElem_fin, Vector.getElem_set]
  by_cases h : b' = b
  · subst h; simp
  · have : b.val ≠ b'.val := fun e => h (Fin.ext e.symm)
    simp [h, this]

/-- A lane put in place leaves quiet what was quiet, where no rule of that lane is due. -/
theorem quiet_setLane {s : State} (h : s.Quiet) (l : Lane) (u : LaneUnit) (hu : u.due s.conveyorHeld = false) :
    (s.setLane l u).Quiet := by
  refine ⟨h.held, fun l' => ?_, h.bins, h.corner⟩
  rw [lane_setLane]
  split
  · exact hu
  · exact h.lanes l'

/-- A bin put in place leaves quiet what was quiet, where it does not start to compact. -/
theorem quiet_setBin {s : State} (h : s.Quiet) (b : BinId) (u : BinUnit) (hu : u.compactionDue = false) : (s.setBin b u).Quiet := by
  refine ⟨h.held, h.lanes, fun b' => ?_, h.corner⟩
  rw [bin_setBin]
  split
  · exact hu
  · exact h.bins b'

/-! ### Offers -/

/-- The report is queued or held out. -/
def LinkPort.has (k : LinkPort) (r : Report) : Prop := r ∈ k.queue ∨ r ∈ k.heldOut

theorem replaceSubject_mem (x : Subject) (r : Report) (l : List Report) (h : l.any (·.isOf x) = true) : r ∈ replaceSubject x r l := by
  obtain ⟨q, hq, hx⟩ := List.any_eq_true.1 h
  unfold replaceSubject
  exact List.mem_map.2 ⟨q, hq, by rw [if_pos hx]⟩

theorem replaceSubject_keeps (x : Subject) (r q : Report) (l : List Report) (hq : q ∈ l) (hx : q.isOf x = false) :
    q ∈ replaceSubject x r l := by
  unfold replaceSubject
  exact List.mem_map.2 ⟨q, hq, by rw [if_neg (by simp [hx])]⟩

/-- An offered report is queued or held out, or is droppable and lost with LOST set (R188 to R190). -/
theorem offer_has (k : LinkPort) (r : Report) : (k.offer r).has r ∨ (r.treatment = .droppable ∧ (k.offer r).lost = true) := by
  unfold LinkPort.offer LinkPort.has
  split
  · rename_i h
    split
    · exact Or.inl (Or.inl (by simp [LinkPort.enqueue]))
    · exact Or.inr ⟨h, rfl⟩
  · split
    · exact Or.inl (Or.inl (by simp [LinkPort.enqueue]))
    · exact Or.inl (Or.inr (by simp [LinkPort.holdOut]))
  · rename_i x h
    split
    · rename_i ha; exact Or.inl (Or.inl (replaceSubject_mem x r _ ha))
    · split
      · rename_i ha; exact Or.inl (Or.inr (replaceSubject_mem x r _ ha))
      · split
        · exact Or.inl (Or.inl (by simp [LinkPort.enqueue]))
        · exact Or.inl (Or.inr (by simp [LinkPort.holdOut]))

theorem offer_lost (k : LinkPort) (r : Report) (h : k.lost = true) : (k.offer r).lost = true := by
  unfold LinkPort.offer
  repeat' split
  all_goals first | exact h | rfl

/-- A report of another subject stays queued or held out through an offer (R189). -/
theorem offer_keeps (k : LinkPort) (r q : Report) (h : k.has q) (hx : ∀ x, r.treatment = .coalesced x → q.isOf x = false) :
    (k.offer r).has q := by
  unfold LinkPort.offer LinkPort.has at *
  split
  · split
    · rcases h with h | h
      · exact Or.inl (by simp [LinkPort.enqueue, h])
      · exact Or.inr h
    · exact h
  · split
    · rcases h with h | h
      · exact Or.inl (by simp [LinkPort.enqueue, h])
      · exact Or.inr h
    · rcases h with h | h
      · exact Or.inl h
      · exact Or.inr (by simp [LinkPort.holdOut, h])
  · rename_i x ht
    have hx := hx x ht
    split
    · rcases h with h | h
      · exact Or.inl (replaceSubject_keeps x r q _ h hx)
      · exact Or.inr h
    · split
      · rcases h with h | h
        · exact Or.inl h
        · exact Or.inr (replaceSubject_keeps x r q _ h hx)
      · split
        · rcases h with h | h
          · exact Or.inl (by simp [LinkPort.enqueue, h])
          · exact Or.inr h
        · rcases h with h | h
          · exact Or.inl h
          · exact Or.inr (by simp [LinkPort.holdOut, h])

/-- An offer that finds room leaves nothing held out, and one that finds none frees none. -/
theorem offer_room (k : LinkPort) (r : Report) (h : k.hasRoom = true → k.heldOut = []) :
    ((k.offer r).hasRoom = true → (k.offer r).heldOut = []) ∧ (k.hasRoom = true → (k.offer r).heldOut = []) ∧
    (k.offer r).queue.length ≤ k.queue.length + 1 := by
  unfold LinkPort.offer
  cases hr : k.hasRoom with
  | true =>
    have h := h hr
    simp only [if_true]
    split
    · exact ⟨fun _ => h, fun _ => h, by simp [LinkPort.enqueue]⟩
    · exact ⟨fun _ => h, fun _ => h, by simp [LinkPort.enqueue]⟩
    · split
      · exact ⟨fun _ => h, fun _ => h, by simp [replaceSubject]⟩
      · split
        · rename_i h2; rw [h] at h2; cases h2
        · exact ⟨fun _ => h, fun _ => h, by simp [LinkPort.enqueue]⟩
  | false =>
    simp only [Bool.false_eq_true, if_false]
    have hr' : ¬ k.queue.length < Config.queueReports := by simpa [LinkPort.hasRoom] using hr
    have no : ∀ q : List Report, q.length = k.queue.length → decide (q.length < Config.queueReports) = true → False := by
      intro q hq hd
      rw [hq] at hd
      exact hr' (of_decide_eq_true hd)
    split
    · exact ⟨fun h2 => (no _ rfl h2).elim, fun h2 => h2.elim, Nat.le_succ _⟩
    · exact ⟨fun h2 => (no _ rfl h2).elim, fun h2 => h2.elim, Nat.le_succ _⟩
    · split
      · exact ⟨fun h2 => (no _ (by simp [replaceSubject]) h2).elim, fun h2 => h2.elim, by simp [replaceSubject]⟩
      · split
        · exact ⟨fun h2 => (no _ rfl h2).elim, fun h2 => h2.elim, Nat.le_succ _⟩
        · exact ⟨fun h2 => (no _ rfl h2).elim, fun h2 => h2.elim, Nat.le_succ _⟩

theorem offers_room (g : Made → Report) (l : List Made) (k : LinkPort) (h : k.hasRoom = true → k.heldOut = []) :
    (l.foldl (fun k m => k.offer (g m)) k).hasRoom = true → (l.foldl (fun k m => k.offer (g m)) k).heldOut = [] := by
  induction l generalizing k with
  | nil => exact h
  | cons m l ih => exact ih _ (offer_room k (g m) h).1

/-- Offers within the room of the queue leave nothing held out. -/
theorem offers_fit (g : Made → Report) (l : List Made) (k : LinkPort) (h : k.heldOut = [])
    (hn : k.queue.length + l.length ≤ Config.queueReports) : (l.foldl (fun k m => k.offer (g m)) k).heldOut = [] := by
  induction l generalizing k with
  | nil => exact h
  | cons m l ih =>
    simp only [List.length_cons] at hn
    obtain ⟨-, h2, h3⟩ := offer_room k (g m) (fun _ => h)
    refine ih (k.offer (g m)) (h2 ?_) (by omega)
    simp only [LinkPort.hasRoom, decide_eq_true_eq]
    omega

/-- Every report of a batch with one report a subject is queued or held out after the batch, or droppable and lost. -/
theorem offers_has (g : Made → Report) (l : List Made) (k : LinkPort)
    (hd : l.Pairwise (fun a b => ∀ x, (g b).treatment = .coalesced x → (g a).isOf x = false)) (m : Made) (hm : m ∈ l) :
    (l.foldl (fun k m => k.offer (g m)) k).has (g m) ∨
      ((g m).treatment = .droppable ∧ (l.foldl (fun k m => k.offer (g m)) k).lost = true) := by
  have keep : ∀ (l : List Made) (k : LinkPort) (q : Report), k.has q →
      (∀ b ∈ l, ∀ x, (g b).treatment = .coalesced x → q.isOf x = false) → (l.foldl (fun k m => k.offer (g m)) k).has q := by
    intro l
    induction l with
    | nil => intro k q h _; exact h
    | cons a l ih =>
      intro k q h hx
      exact ih _ q (offer_keeps k (g a) q h (hx a List.mem_cons_self)) (fun b hb => hx b (List.mem_cons_of_mem a hb))
  have keepLost : ∀ (l : List Made) (k : LinkPort), k.lost = true → (l.foldl (fun k m => k.offer (g m)) k).lost = true := by
    intro l
    induction l with
    | nil => intro k h; exact h
    | cons a l ih => intro k h; exact ih _ (offer_lost k (g a) h)
  induction l generalizing k with
  | nil => cases hm
  | cons a l ih =>
    rw [List.pairwise_cons] at hd
    rcases List.mem_cons.1 hm with rfl | hm
    · rcases offer_has k (g m) with h | h
      · exact Or.inl (keep l _ _ h hd.1)
      · exact Or.inr ⟨h.1, keepLost l _ h.2⟩
    · exact ih _ hd.2 hm

/-! ### The flush of an event whose reports no owner waits for -/

theorem ownersAct_plain (l : List Made) (s : State) (h : ∀ m ∈ l, m.plain = true) : l.foldl State.ownerActs s = s := by
  induction l generalizing s with
  | nil => rfl
  | cons m l ih =>
    rw [List.foldl_cons]
    have : s.ownerActs m = s := by
      have := h m List.mem_cons_self
      cases m <;> first | rfl | cases this
    rw [this]
    exact ih s (fun m hm => h m (List.mem_cons_of_mem _ hm))

/-- The reports taken in a flush are those of the state before it: only a choice is drawn meanwhile. -/
theorem reportOf_draw (s : State) (m : Made) : s.draw.2.reportOf m = s.reportOf m := by
  unfold State.draw
  split <;> rfl

theorem reportOf_arranged (s : State) (l : List Made) (m : Made) : (s.arranged l).2.reportOf m = s.reportOf m := by
  rcases arranged_state s l with h | h <;> rw [h]
  exact reportOf_draw s m

/-- The link after the reports made are offered. -/
def State.offered (s : State) : LinkPort :=
  (s.arranged s.outbox).1.foldl (fun k m => k.offer (s.reportOf m)) s.link

theorem flush_plain (s : State) (h : ∀ m ∈ s.outbox, m.plain = true) :
    s.flush = { (s.arranged s.outbox).2 with link := s.offered, outbox := [] } := by
  unfold State.flush State.offered
  dsimp only
  rw [ownersAct_plain _ _ h]
  have e : (s.arranged s.outbox).2.reportOf = s.reportOf := funext (reportOf_arranged s s.outbox)
  have e2 : (s.arranged s.outbox).2.link = s.link := (arranged_same s s.outbox).2.2.2.2
  rw [e, e2]

/-! ### The end of the event -/

/-- What an event that leaves no rule of the corner due must look like for `settle_reports`: its reports have no waiting owner and fit the
queue, an idle transmitter has an empty queue behind it, and no command is to be taken. -/
structure State.Reporting (s : State) : Prop where
  quiet : s.Quiet
  plain : ∀ m ∈ s.outbox, m.plain = true
  few   : s.outbox.length ≤ Config.queueReports
  idle  : s.link.transmitter = none → s.link.queue = []
  take  : s.NoTake

/-- The link after the event: the reports offered, and the first frame begun where the transmitter was idle. -/
def State.linkAfter (s : State) : LinkPort := (s.offered.begin?).getD s.offered

theorem offered_same (s : State) : s.offered.taking = s.link.taking ∧ s.offered.receiver = s.link.receiver ∧
    s.offered.frameErrors = s.link.frameErrors ∧ s.offered.overruns = s.link.overruns ∧ s.offered.state = s.link.state ∧
    s.offered.supervision = s.link.supervision := offers_same s.reportOf _ s.link

theorem offered_room (s : State) (h : s.Quiet) : s.offered.hasRoom = true → s.offered.heldOut = [] :=
  offers_room s.reportOf _ s.link h.held

theorem offered_fits (s : State) (h : s.Reporting) (ht : s.link.transmitter = none) : s.offered.heldOut = [] := by
  have hq := h.idle ht
  refine offers_fit s.reportOf _ s.link (h.quiet.held ?_) ?_
  · simp [LinkPort.hasRoom, hq, Config.queueReports]
  · rw [hq, (arranged_perm s s.outbox).length_eq]
    simpa using h.few

/-- The end of such an event, whole: reports offered, a frame begun, shutters moved, a choice drawn, and nothing else. -/
theorem settle_reports (s : State) (h : s.Reporting) :
    settle s = ({ (s.arranged s.outbox).2 with link := s.linkAfter, outbox := [] } : State).syncShutters := by
  -- the state after the flush
  obtain ⟨o1, -, -, -, -, -⟩ := offered_same s
  simp only [LinkPort.taking, Prod.mk.injEq] at o1
  obtain ⟨o1, o2, o3⟩ := o1
  have quietOf : ∀ k : LinkPort, (k.hasRoom = true → k.heldOut = []) →
      ({ (s.arranged s.outbox).2 with link := k, outbox := [] } : State).Quiet := by
    intro k hk
    rcases arranged_state s s.outbox with e | e <;> rw [e]
    · exact quiet_congr h.quiet rfl rfl rfl rfl rfl rfl rfl rfl hk
    · refine quiet_congr h.quiet ?_ ?_ ?_ ?_ ?_ ?_ ?_ ?_ hk
      all_goals unfold State.draw; split <;> rfl
  have hflush : settle s = settle { (s.arranged s.outbox).2 with link := s.offered, outbox := [] } := by
    by_cases ho : s.outbox = []
    · have e1 : s.arranged s.outbox = ([], s) := by rw [ho]; rfl
      have e2 : s.offered = s.link := by unfold State.offered; rw [e1]; rfl
      rw [e1, e2]
      dsimp only
      congr 1
      cases s; simp_all
    · rw [← flush_plain s h.plain]
      refine settle_fire ?_
      obtain ⟨h1, h2, h3, h4, h5, h6, h7, h8, h9⟩ := (quiet_iff s).1 h.quiet
      have h10 : s.dueFlush = some s.flush := by
        have hv : s.outbox.any Made.isVoucher = false := by
          rw [List.any_eq_false]
          intro m hm
          have := h.plain m hm
          cases m <;> simp_all [Made.isVoucher, Made.plain]
        unfold State.dueFlush
        rw [if_neg (by simp [ho]), if_neg (by simp [takesReporting_noTake h.take]), if_neg (by simp [hv])]
      simp only [fire, rules, cornerRules, List.cons_append, List.nil_append, List.findSome?_cons, h1, h2, h3, h4, h5, h6, h7, h8, h9, h10]
  rw [hflush]
  have htake : ∀ k : LinkPort, k.intake = s.link.intake → k.replySlot = none → s.link.replySlot = none ∨ s.link.transmitter = none →
      k.intake = [] := by
    intro k hk hr hs
    rcases h.take with ht | ht
    · rw [hk, ht]
    · rcases hs with hs | hs
      · rw [hs] at ht; cases ht.1
      · rw [hs] at ht; cases ht.2
  have hend : ∀ k : LinkPort, (k.hasRoom = true → k.heldOut = []) → (k.replySlot = none → k.intake = []) → k.begin? = none →
      settle { (s.arranged s.outbox).2 with link := k, outbox := [] } =
        ({ (s.arranged s.outbox).2 with link := k, outbox := [] } : State).syncShutters := by
    intro k h1 h2 h3
    unfold settle
    rw [settleLoop_of_none]
    exact (rest_iff _).2 ⟨quietOf k h1, rfl, h2, h3⟩
  unfold State.linkAfter
  cases hb : s.offered.begin? with
  | none =>
    refine hend _ (offered_room s h.quiet) (fun hr => ?_) hb
    exact htake _ o1 hr (Or.inl (by rw [← o2]; exact hr))
  | some k =>
    have hst : fire { (s.arranged s.outbox).2 with link := s.offered, outbox := [] } =
        some { (s.arranged s.outbox).2 with link := k, outbox := [] } := by
      obtain ⟨h1, h2, h3, h4, h5, h6, h7, h8, h9⟩ := (quiet_iff _).1 (quietOf s.offered (offered_room s h.quiet))
      have h10 : State.dueFlush { (s.arranged s.outbox).2 with link := s.offered, outbox := [] } = none := rfl
      have h11 : State.dueTake { (s.arranged s.outbox).2 with link := s.offered, outbox := [] } = none := by
        unfold State.dueTake
        refine if_neg ?_
        simp only [Bool.and_eq_true, Option.isNone_iff_eq_none, not_and, Bool.not_eq_true, Bool.not_eq_false', List.isEmpty_iff]
        intro hr
        exact htake _ o1 hr (Or.inl (by rw [← o2]; exact hr))
      have h12 : State.dueBegin { (s.arranged s.outbox).2 with link := s.offered, outbox := [] } =
          some { (s.arranged s.outbox).2 with link := k, outbox := [] } := by
        unfold State.dueBegin; dsimp only; rw [hb]; rfl
      simp only [fire, rules, cornerRules, List.cons_append, List.nil_append, List.findSome?_cons, h1, h2, h3, h4, h5, h6, h7, h8, h9, h10, h11, h12]
    rw [settle_fire hst]
    have htx : s.link.transmitter = none := by
      rw [← o3]
      cases e : s.offered.transmitter with
      | none => rfl
      | some f => unfold LinkPort.begin? at hb; rw [e] at hb; cases hb
    have hho := offered_fits s h htx
    have hk : k.heldOut = s.offered.heldOut ∧ k.intake = s.offered.intake ∧ k.transmitter ≠ none ∧
        k.replySlot = none := by
      unfold LinkPort.begin? at hb
      split at hb <;> cases hb
      · exact ⟨rfl, rfl, by simp, rfl⟩
      · rename_i e _; exact ⟨rfl, rfl, by simp, e⟩
    refine hend k (fun _ => hk.1.trans hho) (fun hr => htake k (hk.2.1.trans o1) hr (Or.inr htx)) ?_
    rw [begin_none_iff]
    intro hn
    exact absurd hn hk.2.2.1

/-- Such an event leaves everything but what is on its way to the host as it was, the shutters apart. -/
theorem settle_apart (s : State) (h : s.Reporting) : (settle s).apart = s.syncShutters.apart := by
  rw [settle_reports s h]
  obtain ⟨o1, o2, o3, o4, o5, o6⟩ := offered_same s
  simp only [LinkPort.taking, Prod.mk.injEq] at o1
  obtain ⟨o1, -, -⟩ := o1
  have hk : s.linkAfter.intake = s.link.intake ∧ s.linkAfter.receiver = s.link.receiver ∧
      s.linkAfter.frameErrors = s.link.frameErrors ∧ s.linkAfter.overruns = s.link.overruns ∧ s.linkAfter.state = s.link.state ∧
      s.linkAfter.supervision = s.link.supervision := by
    unfold State.linkAfter
    cases hb : s.offered.begin? with
    | none => exact ⟨o1, o2, o3, o4, o5, o6⟩
    | some k =>
      unfold LinkPort.begin? at hb
      split at hb <;> cases hb <;> exact ⟨o1, o2, o3, o4, o5, o6⟩
  obtain ⟨k1, k2, k3, k4, k5, k6⟩ := hk
  have e : ({ s.linkAfter with replySlot := none, transmitter := none, queue := [], heldOut := [], lost := false } : LinkPort) =
      { s.link with replySlot := none, transmitter := none, queue := [], heldOut := [], lost := false } := by
    simp [k1, k2, k3, k4, k5, k6]
  unfold State.apart State.syncShutters
  dsimp only
  rw [e]
  rcases arranged_state s s.outbox with h | h <;> rw [h]
  unfold State.draw
  split <;> rfl

/-- After such an event a reply that was in the slot is being sent, or waits behind a frame being sent. -/
theorem settle_replying (s : State) (h : s.Reporting) (f : Frame) (hf : s.link.replySlot = some f) : (settle s).Replying f := by
  rw [settle_reports s h]
  obtain ⟨o1, -⟩ := offered_same s
  simp only [LinkPort.taking, Prod.mk.injEq] at o1
  show s.linkAfter.transmitter = some f ∨ s.linkAfter.replySlot = some f
  unfold State.linkAfter LinkPort.begin?
  rw [o1.2.1, hf]
  cases s.offered.transmitter with
  | none => exact Or.inl rfl
  | some g => right; exact o1.2.1.trans hf

/-- After such an event every report made, one a subject, is told, or droppable and lost. -/
theorem settle_told (s : State) (h : s.Reporting)
    (hd : s.outbox.Pairwise (fun a b => ∀ x, (s.reportOf b).treatment = .coalesced x → (s.reportOf a).isOf x = false))
    (m : Made) (hm : m ∈ s.outbox) :
    (settle s).Told (s.reportOf m) ∨ ((s.reportOf m).treatment = .droppable ∧ s.offered.lost = true) := by
  have hp := arranged_perm s s.outbox
  have hsym : ∀ a b : Made, (∀ x, (s.reportOf b).treatment = .coalesced x → (s.reportOf a).isOf x = false) →
      ∀ x, (s.reportOf a).treatment = .coalesced x → (s.reportOf b).isOf x = false := by
    intro a b hab x hx
    cases hb : (s.reportOf b).isOf x with
    | false => rfl
    | true =>
      have := hab x (by simpa [Report.isOf] using hb)
      simp [Report.isOf, hx] at this
  have hd' := (hp.pairwise_iff (fun {a b} => hsym a b)).2 hd
  have ho : s.offered.has (s.reportOf m) ∨ ((s.reportOf m).treatment = .droppable ∧ s.offered.lost = true) :=
    offers_has s.reportOf _ s.link hd' m (hp.mem_iff.2 hm)
  rcases ho with ho | ho
  · left
    rw [settle_reports s h]
    show s.reportOf m ∈ s.linkAfter.queue ∨ s.reportOf m ∈ s.linkAfter.heldOut ∨ s.linkAfter.transmitter = _ ∨ s.linkAfter.transmitter = _
    unfold State.linkAfter
    cases hb : s.offered.begin? with
    | none => rcases ho with ho | ho
              · exact Or.inl ho
              · exact Or.inr (Or.inl ho)
    | some k =>
      unfold LinkPort.begin? at hb
      split at hb
      · cases hb
      · cases hb
        rcases ho with ho | ho
        · exact Or.inl ho
        · exact Or.inr (Or.inl ho)
      · rename_i r rest e1 e2 e3
        cases hb
        rcases ho with ho | ho
        · rw [e3] at ho
          rcases List.mem_cons.1 ho with rfl | ho
          · right; right
            cases s.offered.lost
            · exact Or.inl rfl
            · exact Or.inr rfl
          · exact Or.inl ho
        · exact Or.inr (Or.inl ho)
      · cases hb
  · exact Or.inr ho

/-! ### What a RESTART leaves in the queue -/

/-- The reports that a RESTART may leave in the queue are the queued CODE_QUERYs of the queries in progress. -/
theorem mem_queriesQueued (s : State) (x : Report) :
    x ∈ s.queriesQueued ↔ x ∈ s.link.queue ∧ s.asks x = true := by
  simp [State.queriesQueued]

/-- A report that asks is determined by its lane. -/
theorem asks_inj {s : State} {l : Lane} {n n' : Nat} {c c' : Code} (h : s.asks (.codeQuery l n c) = true)
    (h' : s.asks (.codeQuery l n' c') = true) : n = n' ∧ c = c' := by
  simp only [State.asks, beq_iff_eq] at h h'
  rw [h] at h'
  simpa using h'

/-- At most one CODE_QUERY for each lane stays in the queue at a RESTART, so its own reports find room behind. -/
theorem queriesQueued_length (s : State) : s.queriesQueued.length ≤ 4 := by
  have hlane : ∀ x ∈ s.queriesQueued, ∃ l n c, x = Report.codeQuery l n c ∧ s.asks x = true := by
    intro x hx
    have h := ((mem_queriesQueued s x).1 hx).2
    cases x with
    | codeQuery l n c => exact ⟨l, n, c, rfl, h⟩
    | _ => cases h
  let f : Report → Lane := fun x => match x with
    | .codeQuery l _ _ => l
    | _ => 0
  have hnd : (s.queriesQueued.map f).Nodup := by
    refine List.Nodup.map_on ?_ (List.nodup_dedup _)
    intro x hx y hy hxy
    obtain ⟨l, n, c, rfl, h1⟩ := hlane x hx
    obtain ⟨l', n', c', rfl, h2⟩ := hlane y hy
    have e : l = l' := hxy
    subst e
    obtain ⟨rfl, rfl⟩ := asks_inj h1 h2
    rfl
  simpa using hnd.length_le_card

/-- A RESTART leaves nothing of the queue or, of the queries it ends, their CODE_QUERYs, and draws a choice at most. -/
theorem keptAtRestart_cases (s : State) : (s.keptAtRestart.1 = [] ∨ s.keptAtRestart.1 = s.queriesQueued) ∧
    (s.keptAtRestart.2 = s ∨ s.keptAtRestart.2 = s.draw.2) := by
  unfold State.keptAtRestart
  split
  · exact ⟨Or.inl rfl, Or.inl rfl⟩
  · refine ⟨?_, Or.inr rfl⟩
    dsimp only
    split
    · exact Or.inl rfl
    · exact Or.inr rfl

/-- With the lanes coherent, no CODE_QUERY stays at a RESTART that finds no record: no query is in progress (R95, R102). -/
theorem queriesQueued_nil (s : State) (h : s.LanesCoherent) (hr : ∀ l : Lane, (s.lane l).record = none) : s.queriesQueued = [] := by
  rw [List.eq_nil_iff_forall_not_mem]
  intro x hx
  have hx := ((mem_queriesQueued s x).1 hx).2
  cases x with
  | codeQuery l n c =>
    simp only [State.asks, beq_iff_eq] at hx
    have hc := h l
    simp only [LaneUnit.coherent, LaneUnit.queryFits, hx, hr l, Bool.and_eq_true] at hc
    simp at hc
  | _ => cases hx

end Sys2Proof.Machine
end

