-- ==== Sys2Proof/Tests/Slice0.lean ====
section
/-! SUPPORT. Tests: the checks of WellFormed on ill-formed rows, the manual's worked examples, single rows, and for each statement a
part and operands that meet the hypotheses of each of its clauses. Expected results are the manual's (named in each docstring), or
worked by hand from its rules; the witnesses expect nothing. -/

namespace Sys2Proof.Tests

set_option Elab.async false

open Sys2Proof Sys2Proof.Machine

/-! ### A small part to try the rows on: lane 0 and bin 1 in a state of the test's choosing -/

/-- A frame on its way out. -/
def someFrame : Frame := ⟨0x84#8, 0#8, []⟩

/-- The frame of a QUERY of lane 2. -/
def queryFrame : Frame := ⟨0x0E#8, 9#8, [0#8, 2#8]⟩

/-- A configured part: class 1 of metal to bin 1, class 2 disabled, window 3 for 13-digit codes from 0 to 5 to class 1, and window 4 that
excludes 9. -/
def base : State :=
  { State.reset with
    windows := (State.reset.windows.set 3 ⟨true, .includes, 13, 0, 5, 1⟩).set 4 ⟨true, .excludes, 13, 9, 9, 0⟩
    classes := State.reset.classes.set 1 ⟨true, .metal, 10, 0, 20000, 1, 32, 0, 400, some 1⟩ }

/-- Bin 1 in a state, at position 5, for metal. -/
def binIn (t : BinState) : BinUnit :=
  { BinUnit.reset with
    state := t, position := 5, materials := ⟨false, true, false, false⟩, capacity := 4, nearFull := 3, interval := 3, fill := 1
    contacts := .both, seating := .seated, debouncing := false, ready := true
    faultCause := if t = .fault then some .notReady else none }

/-- A part with bin 1 in place. -/
def withBin (u : BinUnit) : State := base.setBin 1 u

/-- Lane 0 in a state, calibrated. -/
def laneIn (t : LaneState) : LaneUnit :=
  { LaneUnit.reset with
    state := t, span := 40000, mouthOpen := false
    config := { LaneConfig.defaults with beltPitch := 8, stopDistance := 10, settleCount := 4, attempts := 2, queryEnabled := true }
    belt := match t with
      | .admitting | .handoff => .forward
      | .returning => .reverse
      | _ => .off
    faultCause := if t = .fault then some .beltStall else none }

/-- A part with lane 0 in place, its shutter where it is commanded. -/
def withLane (u : LaneUnit) : State := (base.setLane 0 u).syncShutters

/-- A frame is being sent. -/
def sending (s : State) : State := { s with link := { s.link with transmitter := some someFrame } }

/-- A frame is being sent and a reply waits behind it. -/
def replying (s : State) : State := { s with link := { s.link with transmitter := some someFrame, replySlot := some someFrame } }

/-- A record of lane 0 that is measured and carries the code 5. -/
def measured : ContainerRecord :=
  { ContainerRecord.fresh 0 7 with diameter := some 8, length := some 96, code := some ⟨13, 5⟩ }

/-- The same with ACCEPT and no destination. -/
def accepted : ContainerRecord :=
  { measured with verdict := some .accept, cls := some 1, material := some .metal, unitValue := some 10, weighing := some (.weight 100),
                  gain := some .g16 }

/-- The same with bin 1 as destination. -/
def routed : ContainerRecord := { accepted with destination := some 1 }

/-- An OPEN session with one line. -/
def openSession : Session := ⟨.opened, 3, none, [⟨1, 10, 2, 20⟩], 2, 20, 1, false⟩

/-- The token of a routed record. -/
def aToken : Token := Token.ofRecord routed

/-- The same session CLOSING, its voucher waiting for room. -/
def waitingSession : Session := { openSession with state := .closing, cause := some .idle, voucherWaiting := true }

/-- Lane 0 in READY with that session. -/
def waitingLane : LaneUnit := { laneIn .ready with session := waitingSession, holds := { HoldSet.none with sessionClosing := true } }

/-! ### The parts that the witnesses use -/

def partBase : State := base

def partReplying : State := replying base

def partFull4 : State := { replying base with link := { (replying base).link with intake := List.replicate 4 queryFrame } }

def partRxLen : State := { base with link := { base.link with receiver := ⟨.len, [0xA5#8]⟩ } }

def partRxKind : State := { base with link := { base.link with receiver := ⟨.kind, [0xA5#8, 2#8]⟩ } }

def partRxTag : State := { base with link := { base.link with receiver := ⟨.tag, [0xA5#8, 2#8, 0x0E#8]⟩ } }

def partRxBody : State := { base with link := { base.link with receiver := ⟨.body, [0xA5#8, 2#8, 0x0E#8, 9#8, 0#8]⟩ } }

def partRxCheck : State := { base with link := { base.link with receiver := ⟨.check, [0xA5#8, 2#8, 0x0E#8, 9#8, 0#8, 2#8]⟩ } }

def partSuperv : State := { base with link := { base.link with supervision := some 10 } }

def partSupervNext : State := { partSuperv with pending := [.frameReceived queryFrame (checkOfFrame queryFrame)] }

def partSupervOff : State := { base with
    corner := { base.corner with supervisionTime := 0 }, link := { base.link with supervision := some 10 } }

def partSupervNone : State := { base with link := { base.link with supervision := none } }

def partLostReply : State := { replying (withLane { laneIn .ready with holds := { HoldSet.none with link := true } }) with
    link := { (replying base).link with state := .lost } }

def partLostFull : State := { partLostReply with
    link := { partLostReply.link with intake := List.replicate 4 queryFrame, overruns := 7 } }

def partStandbyLost : State := { withLane { laneIn .standby with holds := { HoldSet.none with link := true } } with
    link := { base.link with state := .lost } }

def partReplyBad : State := { replying base with
    link := { (replying base).link with intake := [⟨0x07#8, 1#8, []⟩, queryFrame] } }

def partTxQueue : State := { sending base with link := { (sending base).link with queue := [.ring .phantom 0], lost := true } }

def partTxHeld : State := { sending base with
    link := { (sending base).link with queue := List.replicate 32 (.ring .phantom 0), heldOut := [.lane (base.laneReport 2)] } }

def partBService : State := withBin (binIn .service)

def partBAbsent : State := withBin { binIn .absent with contacts := .neither, seating := .unseated }

def partBUnconfSeated : State := withBin { BinUnit.reset with contacts := .both, seating := .seated, debouncing := false }

def partWeighFull : State := withLane { laneIn .weigh with
    record := some measured, weigher := ⟨.container, .window, .g16, 0, false, List.replicate 15 100, 0, none⟩ }

def partWeighBin : State := partWeighFull.setBin 1 (binIn .opened)

def partReady : State := withLane (laneIn .ready)

def partCatch59 : State := { base with catchCount := 59 }

def partNoClass : State := { withLane (laneIn .closed) with classes := State.reset.classes }

def partClosedLane : State := withLane { laneIn .closed with span := 40000 }

def partReadyHeld : State := withLane { laneIn .ready with
    weigher := ⟨.zero, .discard, .g16, 1, true, [], 0, none⟩, calRunning := true, coldStart := true }

def partHold : State := { withLane { laneIn .hold with record := some accepted, session := openSession } with
    requests := [0], pocketBeam := true, pocket := .foreign, conveyor := .running 1500 }

def partReadySess : State := withLane { laneIn .ready with session := openSession }

def partStandby : State := withLane { laneIn .standby with converterOn := false }

def partReadyBtn : State := withLane { laneIn .ready with session := openSession, button := ⟨false, true⟩ }

def partReadyBtnNone : State := withLane { laneIn .standby with button := ⟨false, true⟩ }

def partReadyBtnUp : State := withLane { laneIn .ready with button := ⟨true, true⟩ }

def partDueVMouth : State := withLane { laneIn .ready with
    mouth := ⟨true, false⟩, session := { openSession with state := .closing, cause := some .idle },
    holds := { HoldSet.none with sessionClosing := true } }

def partDueVoucher : State := withLane { laneIn .ready with
    session := { openSession with state := .closing, cause := some .idle },
    holds := { HoldSet.none with sessionClosing := true } }

def partQuery : State := withLane { laneIn .query with
    record := some { measured with weighing := some (.weight 100) }, query := .opened 7 ⟨13, 5⟩ 2000 }

def partQueryBin : State := partQuery.setBin 1 (binIn .opened)

def partBServiceOut : State := withBin { binIn .service with seating := .unseated, contacts := .neither }

def partBFault : State := withBin (binIn .fault)

def partBFaultNR : State := withBin { binIn .fault with ready := false }

def partBFaultBoth : State := withBin { binIn .fault with seating := .unseated, debouncing := true }

def partConvFault : State := { base with conveyor := .fault }

def partPocketForeignClear : State := { base with pocket := .foreign, conveyor := .starting 1000 }

def partRingTok : State := { withBin { binIn .opened with reserved := 1 } with
    ring := State.reset.ring.set 4 (some aToken), conveyor := .running 1500,
    counters := { FlowCounters.zero with handedOff := 1 } }

def partRingStop : State := { partRingTok with conveyor := .halted }

def partFaultAcc : State := withLane { laneIn .fault with record := some accepted, session := openSession }

def partClosePend : State := withLane { laneIn .fault with
    record := some measured, closePending := true, holds := { HoldSet.none with closePending := true } }

def partAdmitClear : State := withLane { laneIn .admitting with
    record := some (ContainerRecord.fresh 0 7), curtain := { Curtain.reset with phase := .waiting, pending := 0x1FF#32 } }

def partAdmitPass : State := withLane { laneIn .admitting with
    record := some (ContainerRecord.fresh 0 7),
    curtain := { Curtain.reset with phase := .passing, extent := 9, pulses := 44, settled := 0x1FF#32, pending := 0x1FF#32 } }

def partAdmitStop9 : State := withLane { laneIn .admitting with
    record := some measured, curtain := { Curtain.reset with phase := .stopping, stops := 9, stray := 2 } }

def partReturning : State := withLane { laneIn .returning with
    record := some { measured with verdict := some (.reject .long) }, returnTravel := 399 }

def partReturnStop : State := withLane { laneIn .returning with
    belt := .off, mouth := ⟨true, false⟩, shutter := true, record := some { measured with verdict := some (.reject .long) } }

def partAdmitState : State := withLane { laneIn .admitting with
    record := some (ContainerRecord.fresh 0 7), mouth := ⟨true, false⟩, mouthOpen := true,
    curtain := { Curtain.reset with phase := .waiting } }

def partZeroMouth : State := withLane { laneIn .ready with
    mouth := ⟨true, false⟩, calRunning := true, weigher := ⟨.zero, .window, .g16, 0, false, List.replicate 15 100, 1, none⟩ }

def partRetClose : State := withLane { laneIn .returning with
    belt := .off, mouth := ⟨true, false⟩, closePending := true, holds := { HoldSet.none with closePending := true },
    record := some { measured with verdict := some (.reject .long) } }

def partAdmitPass2 : State := withLane { laneIn .admitting with
    record := some (ContainerRecord.fresh 0 7),
    curtain := { Curtain.reset with phase := .passing, extent := 9, pulses := 45, settled := 0x1FF#32 } }

def partAdmitStop : State := withLane { laneIn .admitting with
    record := some measured, curtain := { Curtain.reset with phase := .stopping, stops := 8 } }

def partReturnLost : State := withLane { laneIn .returning with
    record := some { measured with verdict := some (.reject .long) }, returnTravel := 400,
    config := { (laneIn .ready).config with returnTravel := 400 } }

def partHandoff : State := { withLane { laneIn .handoff with record := some accepted } with
    pocket := .granted 0 1500, conveyor := .running 1500 }

def partDueAdmit : State := withLane { laneIn .ready with mouth := ⟨true, false⟩ }

def partDueClose : State := withLane { laneIn .fault with
    closePending := true, holds := { HoldSet.none with closePending := true } }

def partSpanMouth : State := withLane { laneIn .ready with
    mouth := ⟨true, false⟩, calRunning := true, zero := -200000,
    weigher := ⟨.span, .window, .g1, 0, false, List.replicate 15 100, 1, some 500⟩ }

def partZeroPend : State := withLane { laneIn .ready with
    closePending := true, holds := { HoldSet.none with closePending := true }, calRunning := true,
    weigher := ⟨.zero, .window, .g16, 0, false, List.replicate 15 100, 1, none⟩ }

def partSpanPend : State := withLane { laneIn .ready with
    closePending := true, holds := { HoldSet.none with closePending := true }, calRunning := true, zero := -200000,
    weigher := ⟨.span, .window, .g1, 0, false, List.replicate 15 100, 1, some 500⟩ }

def partMouthPend : State := withLane { laneIn .ready with mouth := ⟨false, true⟩ }

def partStrayReady : State := withLane { laneIn .ready with curtain := { Curtain.reset with stray := 2 } }

def partStrayHold : State :=
  { withLane { laneIn .hold with record := some accepted, curtain := { Curtain.reset with stray := 2 } } with
    requests := [0], pocketBeam := true, pocket := .foreign, conveyor := .running 1500 }

def partStrayHandoff : State :=
  { withLane { laneIn .handoff with record := some accepted, curtain := { Curtain.reset with stray := 2 } } with
    pocket := .granted 0 1500, conveyor := .running 1500 }

def partSkipping : State := withLane { laneIn .ready with reader := ⟨[], false, true⟩ }

def partLine16 : State := withLane { laneIn .ready with reader := ⟨List.replicate 16 0x31#8, false, false⟩ }

def partLineGood : State := withLane { laneIn .admitting with
    record := some (ContainerRecord.fresh 0 7), curtain := { Curtain.reset with phase := .waiting },
    reader := ⟨[0x34#8, 0x30#8, 0x30#8, 0x36#8, 0x33#8, 0x38#8, 0x31#8, 0x32#8], false, false⟩ }

def partLineBad : State := withLane { laneIn .admitting with
    record := some (ContainerRecord.fresh 0 7), curtain := { Curtain.reset with phase := .waiting },
    reader := ⟨[0x34#8, 0x30#8, 0x30#8, 0x36#8, 0x33#8, 0x38#8, 0x31#8, 0x33#8], false, false⟩ }

def partWeighDisc : State := withLane { laneIn .weigh with
    record := some measured, weigher := ⟨.container, .discard, .g16, 4, false, [], 0, none⟩,
    curtain := { Curtain.reset with phase := .ended } }

def partReadyAZ : State := withLane { laneIn .ready with weigher := ⟨.autoZero, .discard, .g16, 1, false, [], 0, none⟩ }

def partWeighWin : State := withLane { laneIn .weigh with
    record := some measured, weigher := ⟨.container, .window, .g16, 0, false, [100, 100], 0, none⟩ }

def partAzFull : State := withLane { laneIn .ready with
    weigher := ⟨.autoZero, .window, .g16, 0, false, List.replicate 15 1, 1, none⟩ }

def partZeroFull : State := withLane { laneIn .ready with
    calRunning := true, weigher := ⟨.zero, .window, .g16, 0, false, List.replicate 15 100, 1, none⟩ }

def partSpanFull : State := withLane { laneIn .ready with
    calRunning := true, zero := -200000, weigher := ⟨.span, .window, .g1, 0, false, List.replicate 15 100, 1, some 500⟩ }

def partSpanBad : State := withLane { laneIn .ready with
    calRunning := true, zero := 200000, weigher := ⟨.span, .window, .g4, 0, false, List.replicate 15 100, 1, some 500⟩ }

def partAzFar : State := withLane { laneIn .ready with
    zero := -20000, weigher := ⟨.autoZero, .window, .g16, 0, false, List.replicate 15 1, 1, none⟩ }

def partWeighFull1 : State := withLane { laneIn .weigh with
    record := some { measured with code := none },
    weigher := ⟨.container, .window, .g1, 0, false, List.replicate 15 100, 1, none⟩ }

def partWeighEx : State := withLane { laneIn .weigh with
    record := some { measured with code := some ⟨13, 9⟩ },
    weigher := ⟨.container, .window, .g4, 0, false, List.replicate 15 100, 0, none⟩ }

def partWeighUnkOff : State := withLane { laneIn .weigh with
    record := some { measured with code := some ⟨8, 5⟩ }, config := { (laneIn .weigh).config with queryEnabled := false },
    weigher := ⟨.container, .window, .g4, 0, false, List.replicate 15 100, 0, none⟩ }

def partWeighUnk : State := withLane { laneIn .weigh with
    record := some { measured with code := some ⟨8, 5⟩ },
    weigher := ⟨.container, .window, .g4, 0, false, List.replicate 15 100, 0, none⟩ }

def partWeighLong : State := withLane { laneIn .weigh with
    record := some { measured with length := some 408 },
    weigher := ⟨.container, .window, .g4, 0, false, List.replicate 15 100, 0, none⟩ }

def partStrayQuery : State := withLane { laneIn .query with
    record := some { measured with weighing := some (.weight 100) }, query := .opened 7 ⟨13, 5⟩ 2000,
    curtain := { Curtain.reset with stray := 2 } }

def partFaultRej : State := withLane { laneIn .fault with record := some { measured with verdict := some (.reject .long) } }

def partRingWin : State := { withBin { binIn .opened with reserved := 1, window := true, diverter := true } with
    ring := State.reset.ring.set 5 (some aToken), conveyor := .running 1500,
    counters := { FlowCounters.zero with handedOff := 1 } }

def partRingEnd : State := { base with
    ring := State.reset.ring.set 31 (some Token.foreign), conveyor := .running 1500,
    counters := { FlowCounters.zero with foreign := 1 } }

def partRingFlag : State := { base with endFlag := true }

def partRingNear : State := partRingWin.setBin 1 { partRingWin.bin 1 with fill := 2 }

def partRingLast : State := partRingWin.setBin 1 { partRingWin.bin 1 with fill := 3 }

def partDueGrant : State := { withLane { laneIn .hold with record := some accepted } with requests := [0] }

def partPocketRel : State := { base with pocket := .releasing 400, conveyor := .running 1500 }

def partPocketLoadedClear : State := { base with pocket := .loaded accepted, conveyor := .running 1500 }

def partHandoffBin : State :=
  { (partHandoff.setBin 1 { binIn .opened with reserved := 1 }).setLane 0 { partHandoff.lane 0 with record := some routed } with
    pocketBeam := false }

def partHandoffRe : State := partHandoffBin.setBin 1 { binIn .opened with
    reserved := 1, materials := ⟨true, false, false, false⟩ }

def partHandoffClose : State := partHandoffBin.setLane 0 { partHandoffBin.lane 0 with
    closePending := true, holds := { HoldSet.none with closePending := true }, session := openSession }

def partHandoffCloseNone : State := partHandoff.setLane 0 { partHandoff.lane 0 with
    closePending := true, holds := { HoldSet.none with closePending := true }, session := openSession }

def partHandoffCloseRe : State := partHandoffRe.setLane 0 { partHandoffRe.lane 0 with
    closePending := true, holds := { HoldSet.none with closePending := true }, session := openSession }

def partPocketRelBeam : State := { base with pocket := .releasing 400, conveyor := .running 1500, pocketBeam := true }

def partHandoffBeam : State := { partHandoff with pocketBeam := true }

def partDueRun : State := { base with conveyor := .running 1500 }

def partPocketForeign : State := { base with pocket := .foreign, conveyor := .starting 1000, pocketBeam := true }

def partConvRunOut : State := { base with conveyor := .runOut 1500 10 }

def partBAbsentBoth : State := withBin { binIn .absent with seating := .unseated, debouncing := true }

def partBOne : State := withBin { binIn .absent with contacts := .one, seating := .unseated, debouncing := true }

def partBPartial : State := withBin { binIn .absent with contacts := .neither, seating := .partially, debouncing := true }

def partBPower : State := withBin { binIn .powering with ready := false }

def partDueCompact : State := withBin (binIn .compactPending)

def partBCompact : State := withBin (binIn .compacting)

def partDueHeld : State := { sending base with link := { (sending base).link with heldOut := [.conveyor base.conveyorReport] } }

def partDueQuery : State :=
  { sending (withLane { laneIn .query with record := some measured, query := .waitingRoom 7 ⟨13, 5⟩ }) with
    link := { (sending base).link with heldOut := [.codeQuery 0 7 ⟨13, 5⟩] } }

def partDueVHeld : State := { sending (withLane waitingLane) with
    link := { (sending base).link with heldOut := [.voucher ((withLane waitingLane).voucherReport 0)] } }

def partInReset : State := { base with resetAsserted := true }

def partBOpen : State := withBin (binIn .opened)

def partScanAgain : State := { replying base with
    link := { (replying base).link with receiver := ⟨.check, [0xA5#8, 0#8, 0xA5#8, 0#8, 0x0B#8]⟩ } }

def partReplyLen : State := { replying base with link := { (replying base).link with receiver := ⟨.len, [0xA5#8]⟩ } }

/-! ### Each of them is at rest -/

theorem ready_partBase : partBase.Ready := by decide +kernel

theorem ready_partReplying : partReplying.Ready := by decide +kernel

theorem ready_partFull4 : partFull4.Ready := by decide +kernel

theorem ready_partRxLen : partRxLen.Ready := by decide +kernel

theorem ready_partRxKind : partRxKind.Ready := by decide +kernel

theorem ready_partRxTag : partRxTag.Ready := by decide +kernel

theorem ready_partRxBody : partRxBody.Ready := by decide +kernel

theorem ready_partRxCheck : partRxCheck.Ready := by decide +kernel

theorem ready_partSupervNext : partSupervNext.Ready := by decide +kernel

theorem ready_partSupervOff : partSupervOff.Ready := by decide +kernel

theorem ready_partSupervNone : partSupervNone.Ready := by decide +kernel

theorem ready_partLostReply : partLostReply.Ready := by decide +kernel

theorem ready_partLostFull : partLostFull.Ready := by decide +kernel

theorem ready_partStandbyLost : partStandbyLost.Ready := by decide +kernel

theorem ready_partReplyBad : partReplyBad.Ready := by decide +kernel

theorem ready_partTxQueue : partTxQueue.Ready := by decide +kernel

theorem ready_partTxHeld : partTxHeld.Ready := by decide +kernel

theorem ready_partBService : partBService.Ready := by decide +kernel

theorem ready_partBAbsent : partBAbsent.Ready := by decide +kernel

theorem ready_partBUnconfSeated : partBUnconfSeated.Ready := by decide +kernel

theorem ready_partWeighFull : partWeighFull.Ready := by decide +kernel

theorem ready_partWeighBin : partWeighBin.Ready := by decide +kernel

theorem ready_partReady : partReady.Ready := by decide +kernel

theorem ready_partCatch59 : partCatch59.Ready := by decide +kernel

theorem ready_partNoClass : partNoClass.Ready := by decide +kernel

theorem ready_partClosedLane : partClosedLane.Ready := by decide +kernel

theorem ready_partReadyHeld : partReadyHeld.Ready := by decide +kernel

theorem ready_partHold : partHold.Ready := by decide +kernel

theorem ready_partReadySess : partReadySess.Ready := by decide +kernel

theorem ready_partStandby : partStandby.Ready := by decide +kernel

theorem ready_partReadyBtn : partReadyBtn.Ready := by decide +kernel

theorem ready_partReadyBtnNone : partReadyBtnNone.Ready := by decide +kernel

theorem ready_partReadyBtnUp : partReadyBtnUp.Ready := by decide +kernel

theorem ready_partQuery : partQuery.Ready := by decide +kernel

theorem ready_partQueryBin : partQueryBin.Ready := by decide +kernel

theorem ready_partBServiceOut : partBServiceOut.Ready := by decide +kernel

theorem ready_partBFault : partBFault.Ready := by decide +kernel

theorem ready_partBFaultNR : partBFaultNR.Ready := by decide +kernel

theorem ready_partBFaultBoth : partBFaultBoth.Ready := by decide +kernel

theorem ready_partConvFault : partConvFault.Ready := by decide +kernel

theorem ready_partPocketForeignClear : partPocketForeignClear.Ready := by decide +kernel

theorem ready_partRingTok : partRingTok.Ready := by decide +kernel

theorem ready_partRingStop : partRingStop.Ready := by decide +kernel

theorem ready_partFaultAcc : partFaultAcc.Ready := by decide +kernel

theorem ready_partClosePend : partClosePend.Ready := by decide +kernel

theorem ready_partAdmitClear : partAdmitClear.Ready := by decide +kernel

theorem ready_partAdmitPass : partAdmitPass.Ready := by decide +kernel

theorem ready_partAdmitStop9 : partAdmitStop9.Ready := by decide +kernel

theorem ready_partReturning : partReturning.Ready := by decide +kernel

theorem ready_partReturnStop : partReturnStop.Ready := by decide +kernel

theorem ready_partAdmitState : partAdmitState.Ready := by decide +kernel

theorem ready_partZeroMouth : partZeroMouth.Ready := by decide +kernel

theorem ready_partRetClose : partRetClose.Ready := by decide +kernel

theorem ready_partAdmitPass2 : partAdmitPass2.Ready := by decide +kernel

theorem ready_partAdmitStop : partAdmitStop.Ready := by decide +kernel

theorem ready_partReturnLost : partReturnLost.Ready := by decide +kernel

theorem ready_partHandoff : partHandoff.Ready := by decide +kernel

theorem ready_partSpanMouth : partSpanMouth.Ready := by decide +kernel

theorem ready_partZeroPend : partZeroPend.Ready := by decide +kernel

theorem ready_partSpanPend : partSpanPend.Ready := by decide +kernel

theorem ready_partMouthPend : partMouthPend.Ready := by decide +kernel

theorem ready_partStrayReady : partStrayReady.Ready := by decide +kernel

theorem ready_partStrayHold : partStrayHold.Ready := by decide +kernel

theorem ready_partStrayHandoff : partStrayHandoff.Ready := by decide +kernel

theorem ready_partSkipping : partSkipping.Ready := by decide +kernel

theorem ready_partLine16 : partLine16.Ready := by decide +kernel

theorem ready_partLineGood : partLineGood.Ready := by decide +kernel

theorem ready_partLineBad : partLineBad.Ready := by decide +kernel

theorem ready_partWeighDisc : partWeighDisc.Ready := by decide +kernel

theorem ready_partReadyAZ : partReadyAZ.Ready := by decide +kernel

theorem ready_partWeighWin : partWeighWin.Ready := by decide +kernel

theorem ready_partAzFull : partAzFull.Ready := by decide +kernel

theorem ready_partZeroFull : partZeroFull.Ready := by decide +kernel

theorem ready_partSpanFull : partSpanFull.Ready := by decide +kernel

theorem ready_partSpanBad : partSpanBad.Ready := by decide +kernel

theorem ready_partAzFar : partAzFar.Ready := by decide +kernel

theorem ready_partWeighFull1 : partWeighFull1.Ready := by decide +kernel

theorem ready_partWeighEx : partWeighEx.Ready := by decide +kernel

theorem ready_partWeighUnkOff : partWeighUnkOff.Ready := by decide +kernel

theorem ready_partWeighUnk : partWeighUnk.Ready := by decide +kernel

theorem ready_partWeighLong : partWeighLong.Ready := by decide +kernel

theorem ready_partStrayQuery : partStrayQuery.Ready := by decide +kernel

theorem ready_partFaultRej : partFaultRej.Ready := by decide +kernel

theorem ready_partRingWin : partRingWin.Ready := by decide +kernel

theorem ready_partRingEnd : partRingEnd.Ready := by decide +kernel

theorem ready_partRingFlag : partRingFlag.Ready := by decide +kernel

theorem ready_partRingNear : partRingNear.Ready := by decide +kernel

theorem ready_partRingLast : partRingLast.Ready := by decide +kernel

theorem ready_partPocketRel : partPocketRel.Ready := by decide +kernel

theorem ready_partPocketLoadedClear : partPocketLoadedClear.Ready := by decide +kernel

theorem ready_partHandoffBin : partHandoffBin.Ready := by decide +kernel

theorem ready_partHandoffRe : partHandoffRe.Ready := by decide +kernel

theorem ready_partHandoffClose : partHandoffClose.Ready := by decide +kernel

theorem ready_partHandoffCloseNone : partHandoffCloseNone.Ready := by decide +kernel

theorem ready_partHandoffCloseRe : partHandoffCloseRe.Ready := by decide +kernel

theorem ready_partPocketRelBeam : partPocketRelBeam.Ready := by decide +kernel

theorem ready_partHandoffBeam : partHandoffBeam.Ready := by decide +kernel

theorem ready_partPocketForeign : partPocketForeign.Ready := by decide +kernel

theorem ready_partConvRunOut : partConvRunOut.Ready := by decide +kernel

theorem ready_partBAbsentBoth : partBAbsentBoth.Ready := by decide +kernel

theorem ready_partBOne : partBOne.Ready := by decide +kernel

theorem ready_partBPartial : partBPartial.Ready := by decide +kernel

theorem ready_partBPower : partBPower.Ready := by decide +kernel

theorem ready_partBCompact : partBCompact.Ready := by decide +kernel

theorem ready_partScanAgain : partScanAgain.Ready := by decide +kernel

theorem ready_partReplyLen : partReplyLen.Ready := by decide +kernel

theorem sound_partBase : partBase.Sound := ⟨by decide +kernel, by decide +kernel, by decide +kernel, by decide +kernel, by decide +kernel,
  by decide +kernel, by decide +kernel⟩

theorem sound_partHold : partHold.Sound := ⟨by decide +kernel, by decide +kernel, by decide +kernel, by decide +kernel, by decide +kernel,
  by decide +kernel, by decide +kernel⟩

theorem sound_partRingTok : partRingTok.Sound := ⟨by decide +kernel, by decide +kernel, by decide +kernel, by decide +kernel, by decide +kernel,
  by decide +kernel, by decide +kernel⟩

theorem sound_partRingStop : partRingStop.Sound := ⟨by decide +kernel, by decide +kernel, by decide +kernel, by decide +kernel, by decide +kernel,
  by decide +kernel, by decide +kernel⟩

theorem sound_partRingWin : partRingWin.Sound := ⟨by decide +kernel, by decide +kernel, by decide +kernel, by decide +kernel, by decide +kernel,
  by decide +kernel, by decide +kernel⟩

theorem sound_partRingEnd : partRingEnd.Sound := ⟨by decide +kernel, by decide +kernel, by decide +kernel, by decide +kernel, by decide +kernel,
  by decide +kernel, by decide +kernel⟩

theorem sound_partRingFlag : partRingFlag.Sound := ⟨by decide +kernel, by decide +kernel, by decide +kernel, by decide +kernel, by decide +kernel,
  by decide +kernel, by decide +kernel⟩

theorem sound_partRingNear : partRingNear.Sound := ⟨by decide +kernel, by decide +kernel, by decide +kernel, by decide +kernel, by decide +kernel,
  by decide +kernel, by decide +kernel⟩

theorem sound_partRingLast : partRingLast.Sound := ⟨by decide +kernel, by decide +kernel, by decide +kernel, by decide +kernel, by decide +kernel,
  by decide +kernel, by decide +kernel⟩

/-! ### For each statement, what meets the hypotheses of each of its clauses -/

theorem test_witness_AFrameIsTakenOrWaits :
    (∃ (s : State) (f : Frame) (c : BitVec 16) (i : Instr), s.TakesCommands ∧ s.link.state = .normal ∧ f.body.length ≤ 240 ∧
      c = BitVec.ofNat 16 (f.body.length + f.kind.toNat + f.tag.toNat + (f.body.map BitVec.toNat).sum) ∧ commandOfFrame f =
      .command i) ∧
    (∃ (s : State) (f : Frame) (c : BitVec 16) (r : Result), s.TakesCommands ∧ s.link.state = .normal ∧ f.body.length ≤ 240 ∧
      c = BitVec.ofNat 16 (f.body.length + f.kind.toNat + f.tag.toNat + (f.body.map BitVec.toNat).sum) ∧ commandOfFrame f =
      .refused r) ∧
    (∃ (s : State) (f : Frame) (c : BitVec 16) (g : Frame), s.Ready ∧ s.link.state = .normal ∧ f.body.length ≤ 240 ∧ c =
      BitVec.ofNat 16 (f.body.length + f.kind.toNat + f.tag.toNat + (f.body.map BitVec.toNat).sum) ∧ s.link.replySlot =
      some g ∧ s.link.intake.length < 4) ∧
    (∃ (s : State) (f : Frame) (c : BitVec 16) (g : Frame), s.Ready ∧ s.link.state = .normal ∧ f.body.length ≤ 240 ∧ c =
      BitVec.ofNat 16 (f.body.length + f.kind.toNat + f.tag.toNat + (f.body.map BitVec.toNat).sum) ∧ s.link.replySlot =
      some g ∧ 4 ≤ s.link.intake.length) ∧
    (∃ (s : State) (f : Frame) (c : BitVec 16), s.Ready ∧ f.body.length ≤ 240 ∧ f.body.length ≠ 165 ∧
      c ≠ BitVec.ofNat 16 (f.body.length + f.kind.toNat + f.tag.toNat + (f.body.map BitVec.toNat).sum) ∧
      (∀ x ∈ f.kind :: f.tag :: (f.body ++ [BitVec.ofNat 8 c.toNat, BitVec.ofNat 8 (c.toNat / 256)]), x ≠ 0xA5#8)) ∧
    (∃ (s : State) (i : Instr) (f g : Frame), s.Ready ∧ frameOf i = some f ∧ s.link.replySlot = some g ∧
      s.link.intake.length < 4) ∧
    (∃ (s : State) (i : Instr) (f g : Frame), s.Ready ∧ frameOf i = some f ∧ s.link.replySlot = some g ∧
      4 ≤ s.link.intake.length) :=
  ⟨⟨partBase, { kind := 0x00#8, tag := 0x0d#8, body := [0x02#8, 0x03#8] }, 0x0014#16,
    (match commandOfFrame { kind := 0x00#8, tag := 0x0d#8, body := [0x02#8, 0x03#8] } with | .command i => i | _ => .interByteTimeout), ⟨ready_partBase, rfl⟩, by decide +kernel⟩,
   ⟨partBase, { kind := 0x0c#8, tag := 0xb4#8, body := [0x04#8] }, 0x00c5#16, .badValue, ⟨ready_partBase, rfl⟩,
     by decide +kernel⟩,
   ⟨partReplying, { kind := 0x07#8, tag := 0x1f#8, body := [0x01#8] }, 0x0028#16,
     { kind := 0x84#8, tag := 0x00#8, body := [] }, ready_partReplying, by decide +kernel⟩,
   ⟨partFull4, { kind := 0x0f#8, tag := 0xcc#8, body := [] }, 0x00db#16, { kind := 0x84#8, tag := 0x00#8, body := [] },
     ready_partFull4, by decide +kernel⟩,
   ⟨partBase, { kind := 0x0c#8, tag := 0xc2#8, body := [0x09#8, 0x09#8, 0x09#8] }, 0x0007#16, ready_partBase,
     by decide +kernel⟩,
   ⟨partReplying, (.queryCounters { tag := 0x42#8, len := 11 }),
     ((frameOf (.queryCounters { tag := 0x42#8, len := 11 })).getD default), { kind := 0x84#8, tag := 0x00#8, body := [] },
     ready_partReplying, by decide +kernel⟩,
   ⟨partFull4, (.span { tag := 0x6b#8, len := 2 } 1 500), { kind := 0x08#8, tag := 0x6b#8, body := [0x01#8, 0xf4#8] },
     { kind := 0x84#8, tag := 0x00#8, body := [] }, ready_partFull4, by decide +kernel⟩⟩

theorem test_witness_ReceiverTakesBytesAndTimesOut :
    (∃ (s : State) (b : Byte), s.Ready ∧ s.link.receiver.phase = .hunt ∧ b = 0xA5#8) ∧
    (∃ (s : State) (b : Byte) (e : Bool), s.Ready ∧ s.link.receiver.phase = .hunt ∧ (b ≠ 0xA5#8 ∨ e = true)) ∧
    (∃ (s : State) (b : Byte), s.Ready ∧ s.link.receiver.phase = .len ∧ b.toNat ≤ 240) ∧
    (∃ (s : State), s.Ready ∧ s.link.receiver.phase = .kind) ∧
    (∃ (s : State), s.Ready ∧ s.link.receiver.phase = .tag) ∧
    (∃ (s : State), s.Ready ∧ s.link.receiver.phase = .body) ∧
    (∃ (s : State), s.Ready ∧ s.link.receiver.phase = .check ∧
      s.link.receiver.kept.length ≠ 5 + fieldAt s.link.receiver.kept 1 1) ∧
    (∃ (s : State) (b : Byte) (e : Bool), s.Ready ∧ (s.link.receiver.phase = .len ∧ (240 < b.toNat ∨ e = true) ∨
      s.link.receiver.phase = .kind ∧ e = true ∨ s.link.receiver.phase = .tag ∧ e = true ∨ s.link.receiver.phase = .body ∧ e =
      true ∨ s.link.receiver.phase = .check ∧ e = true) ∧ (∀ x ∈ s.link.receiver.kept.drop 1, x ≠ 0xA5#8)) ∧
    (∃ (s : State), s.Ready ∧ s.link.receiver.phase = .hunt) ∧
    (∃ (s : State), s.Ready ∧ s.link.receiver.phase ≠ .hunt ∧ (∀ x ∈ s.link.receiver.kept.drop 1, x ≠ 0xA5#8)) :=
  ⟨⟨partBase, 0xa5#8, ready_partBase, by decide +kernel⟩,
   ⟨partBase, 0x11#8, true, ready_partBase, by decide +kernel⟩,
   ⟨partRxLen, 0xa5#8, ready_partRxLen, by decide +kernel⟩,
   ⟨partRxKind, ready_partRxKind, by decide +kernel⟩,
   ⟨partRxTag, ready_partRxTag, by decide +kernel⟩,
   ⟨partRxBody, ready_partRxBody, by decide +kernel⟩,
   ⟨partRxCheck, ready_partRxCheck, by decide +kernel⟩,
   ⟨partRxLen, 0xff#8, true, ready_partRxLen, by decide +kernel⟩,
   ⟨partBase, ready_partBase, by decide +kernel⟩,
   ⟨partRxLen, ready_partRxLen, by decide +kernel⟩⟩

theorem test_witness_LinkLossHoldsEveryLane :
    (∃ (s : State) (n : Nat), s.Ready ∧ s.link.supervision = some n ∧ s.corner.supervisionTime ≠ 0 ∧ (¬ (s.link.state =
      .normal ∧ s.goodFrameNext = true))) ∧
    (∃ (s : State) (n : Nat), s.Ready ∧ s.link.supervision = some n ∧ s.corner.supervisionTime ≠ 0 ∧ s.link.state = .normal ∧
      s.goodFrameNext = true) ∧
    (∃ (s : State) (n : Nat), s.Ready ∧ s.link.supervision = some n ∧ s.corner.supervisionTime = 0) ∧
    (∃ (s : State), s.Ready ∧ s.link.supervision = none) ∧
    (∃ (s : State) (f g : Frame), s.Ready ∧ (s.link.state = .lost ∨ s.link.state = .expiring) ∧ f.body.length ≤ 240 ∧
      s.link.replySlot = some g ∧ s.link.intake.length < 4) ∧
    (∃ (s : State) (f g : Frame), s.Ready ∧ (s.link.state = .lost ∨ s.link.state = .expiring) ∧ f.body.length ≤ 240 ∧
      s.link.replySlot = some g ∧ 4 ≤ s.link.intake.length) ∧
    (∃ (s : State) (f : Frame) (i : Instr), s.Ready ∧ s.LanesCoherent ∧ s.link.replySlot = none ∧ (s.link.state = .lost ∨
      s.link.state = .expiring) ∧ f.body.length ≤ 240 ∧ commandOfFrame f = .command i) ∧
    (∃ (s : State) (f : Frame) (x : Result), s.Ready ∧ s.link.replySlot = none ∧ (s.link.state = .lost ∨ s.link.state =
      .expiring) ∧ f.body.length ≤ 240 ∧ commandOfFrame f = .refused x) :=
  ⟨⟨partBase, 10, ready_partBase, by decide +kernel⟩,
   ⟨partSupervNext, 10, ready_partSupervNext, by decide +kernel⟩,
   ⟨partSupervOff, 10, ready_partSupervOff, by decide +kernel⟩,
   ⟨partSupervNone, ready_partSupervNone, by decide +kernel⟩,
   ⟨partLostReply, { kind := 0x0a#8, tag := 0x7e#8, body := [] }, { kind := 0x84#8, tag := 0x00#8, body := [] },
     ready_partLostReply, by decide +kernel⟩,
   ⟨partLostFull, { kind := 0x05#8, tag := 0x20#8, body := [0x02#8] }, { kind := 0x84#8, tag := 0x00#8, body := [] },
     ready_partLostFull, by decide +kernel⟩,
   ⟨partStandbyLost, { kind := 0x42#8, tag := 0x6f#8, body := [] },
     (match commandOfFrame { kind := 0x42#8, tag := 0x6f#8, body := [] } with | .command i => i | _ => .interByteTimeout),
     ready_partStandbyLost, by decide +kernel⟩,
   ⟨partStandbyLost,
     { kind := 0x0e#8, tag := 0xf6#8, body := [0x01#8, 0x01#8, 0x00#8, 0x00#8, 0x00#8, 0x00#8, 0x00#8, 0x00#8, 0x00#8, 0x00#8, 0x00#8] }, .badLength, ready_partStandbyLost, by decide +kernel⟩⟩

theorem test_witness_TransmitterSendsReplyThenReports :
    (∃ (s : State) (f g : Frame), s.Ready ∧ s.link.transmitter = some f ∧ s.link.replySlot = some g ∧ s.link.intake = []) ∧
    (∃ (s : State) (f g h : Frame) (q : List Frame) (i : Instr), s.Ready ∧ s.link.transmitter = some f ∧ s.link.replySlot =
      some g ∧ s.link.intake = h :: q ∧ commandOfFrame h = .command i) ∧
    (∃ (s : State) (f g h : Frame) (q : List Frame) (x : Result), s.Ready ∧ s.link.transmitter = some f ∧ s.link.replySlot =
      some g ∧ s.link.intake = h :: q ∧ commandOfFrame h = .refused x) ∧
    (∃ (s : State) (f : Frame) (r : Report) (q : List Report), s.Ready ∧ s.link.transmitter = some f ∧ s.link.replySlot =
      none ∧ s.link.queue = r :: q ∧ s.link.heldOut = []) ∧
    (∃ (s : State) (f : Frame) (r x : Report) (q h : List Report), s.Ready ∧ s.link.transmitter = some f ∧ s.link.replySlot =
      none ∧ s.link.queue = r :: q ∧ s.link.queue.length = 32 ∧ s.link.heldOut = x :: h ∧ x.treatment ≠ .waiting) ∧
    (∃ (s : State), s.Ready ∧ s.link.replySlot = none ∧ s.link.queue = []) :=
  ⟨⟨partReplying, { kind := 0x84#8, tag := 0x00#8, body := [] }, { kind := 0x84#8, tag := 0x00#8, body := [] },
    ready_partReplying, by decide +kernel⟩,
   ⟨partFull4, { kind := 0x84#8, tag := 0x00#8, body := [] }, { kind := 0x84#8, tag := 0x00#8, body := [] },
     { kind := 0x0e#8, tag := 0x09#8, body := [0x00#8, 0x02#8] }, (partFull4.link.intake.drop 1),
     (.queryLane { tag := 0x09#8, len := 2 } 2), ready_partFull4, by decide +kernel⟩,
   ⟨partReplyBad, { kind := 0x84#8, tag := 0x00#8, body := [] }, { kind := 0x84#8, tag := 0x00#8, body := [] },
     { kind := 0x07#8, tag := 0x01#8, body := [] }, (partReplyBad.link.intake.drop 1), .badLength, ready_partReplyBad,
     by decide +kernel⟩,
   ⟨partTxQueue, { kind := 0x84#8, tag := 0x00#8, body := [] }, (partTxQueue.link.queue.headD (.ring .phantom 0)), [],
     ready_partTxQueue, by decide +kernel⟩,
   ⟨partTxHeld, { kind := 0x84#8, tag := 0x00#8, body := [] }, (partTxHeld.link.queue.headD (.ring .phantom 0)),
     (partTxHeld.link.heldOut.headD (.ring .phantom 0)), (partTxHeld.link.queue.drop 1), [], ready_partTxHeld,
     by decide +kernel⟩,
   ⟨partBase, ready_partBase, by decide +kernel⟩⟩

theorem test_witness_SetWindowWritesTheEntryWhole :
    (∃ (s : State) (f : SetWindowFields) (n : Fin 64) (c : ClassId), s.TakesCommands ∧ f.entry = n.val ∧ f.cls = c.val ∧
      (f.entry ≤ 63 ∧ f.enabled ≤ 1 ∧ f.kind ≤ 1 ∧ (f.length = 8 ∨ f.length = 13) ∧ f.low < 10 ^ f.length ∧
      f.high < 10 ^ f.length ∧ f.low ≤ f.high ∧ f.cls ≤ 15)) ∧
    (∃ (s : State) (f : SetWindowFields), s.TakesCommands ∧ (¬ (f.entry ≤ 63 ∧ f.enabled ≤ 1 ∧ f.kind ≤ 1 ∧ (f.length = 8 ∨
      f.length = 13) ∧ f.low < 10 ^ f.length ∧ f.high < 10 ^ f.length ∧ f.low ≤ f.high ∧ f.cls ≤ 15))) :=
  ⟨⟨partBase, { entry := 63, enabled := 1, kind := 1, length := 13, low := 99999999, high := 9999999999999, cls := 0 }, 63, 0,
    ⟨ready_partBase, rfl⟩, by decide +kernel⟩,
   ⟨partBase, { entry := 0, enabled := 1, kind := 1, length := 8, low := 99999999, high := 10000000000000, cls := 0 },
     ⟨ready_partBase, rfl⟩, by decide +kernel⟩⟩

theorem test_witness_SetClassWritesTheEntryWhole :
    (∃ (s : State) (f : SetClassFields) (c : ClassId) (m : Material) (p : Option BinId), s.TakesCommands ∧ f.cls = c.val ∧
      f.material = m.code ∧ f.preferred = (p.map (·.val)).getD 255 ∧ (f.cls ≤ 15 ∧ f.enabled ≤ 1 ∧ f.material ≤ 3 ∧
      f.deposit ≤ 5000 ∧ f.weightMin ≤ f.weightMax ∧ f.weightMax ≤ 20000 ∧ 1 ≤ f.diameterMin ∧ f.diameterMin ≤ f.diameterMax ∧
      f.diameterMax ≤ 32 ∧ f.lengthMin ≤ f.lengthMax ∧ f.lengthMax ≤ 400 ∧ (f.preferred ≤ 5 ∨ f.preferred = 255))) ∧
    (∃ (s : State) (f : SetClassFields), s.TakesCommands ∧ (¬ (f.cls ≤ 15 ∧ f.enabled ≤ 1 ∧ f.material ≤ 3 ∧ f.deposit ≤ 5000 ∧
      f.weightMin ≤ f.weightMax ∧ f.weightMax ≤ 20000 ∧ 1 ≤ f.diameterMin ∧ f.diameterMin ≤ f.diameterMax ∧
      f.diameterMax ≤ 32 ∧ f.lengthMin ≤ f.lengthMax ∧ f.lengthMax ≤ 400 ∧ (f.preferred ≤ 5 ∨ f.preferred = 255)))) :=
  ⟨⟨partBase,
    { cls := 0, enabled := 1, material := 1, deposit := 0, weightMin := 0, weightMax := 4500, diameterMin := 5, diameterMax := 32, lengthMin := 0, lengthMax := 400, preferred := 5 }, 0, .metal, (some 5), ⟨ready_partBase, rfl⟩, by decide +kernel⟩,
   ⟨partBase,
     { cls := 1, enabled := 0, material := 3, deposit := 5001, weightMin := 300, weightMax := 20000, diameterMin := 0, diameterMax := 5, lengthMin := 0, lengthMax := 401, preferred := 255 }, ⟨ready_partBase, rfl⟩, by decide +kernel⟩⟩

theorem test_witness_SetBinWritesTheBin :
    (∃ (s : State) (f : SetBinFields) (b : BinId) (p : Position), s.TakesCommands ∧ f.bin = b.val ∧ f.position = p.val ∧
      1 ≤ f.position ∧ f.position ≤ 30 ∧ 1 ≤ f.materials ∧ f.materials ≤ 15 ∧ 1 ≤ f.capacity ∧ f.capacity ≤ 9999 ∧
      1 ≤ f.nearFull ∧ f.nearFull ≤ f.capacity ∧ f.interval ≤ 255 ∧ f.fill ≤ f.capacity ∧ (∀ b' : BinId, b' ≠ b →
      (s.bin b').configured = true → (s.bin b').position.val ≠ f.position) ∧ (s.bin b).state = .service) ∧
    (∃ (s : State) (f : SetBinFields) (b : BinId) (p : Position), s.TakesCommands ∧ f.bin = b.val ∧ f.position = p.val ∧
      1 ≤ f.position ∧ f.position ≤ 30 ∧ 1 ≤ f.materials ∧ f.materials ≤ 15 ∧ 1 ≤ f.capacity ∧ f.capacity ≤ 9999 ∧
      1 ≤ f.nearFull ∧ f.nearFull ≤ f.capacity ∧ f.interval ≤ 255 ∧ f.fill ≤ f.capacity ∧ (∀ b' : BinId, b' ≠ b →
      (s.bin b').configured = true → (s.bin b').position.val ≠ f.position) ∧ (s.bin b).state = .absent) ∧
    (∃ (s : State) (f : SetBinFields) (b : BinId) (p : Position), s.TakesCommands ∧ f.bin = b.val ∧ f.position = p.val ∧
      1 ≤ f.position ∧ f.position ≤ 30 ∧ 1 ≤ f.materials ∧ f.materials ≤ 15 ∧ 1 ≤ f.capacity ∧ f.capacity ≤ 9999 ∧
      1 ≤ f.nearFull ∧ f.nearFull ≤ f.capacity ∧ f.interval ≤ 255 ∧ f.fill ≤ f.capacity ∧ (∀ b' : BinId, b' ≠ b →
      (s.bin b').configured = true → (s.bin b').position.val ≠ f.position) ∧ (s.bin b).state = .unconfigured ∧
      (s.bin b).seating ≠ .seated) ∧
    (∃ (s : State) (f : SetBinFields) (b : BinId) (p : Position), s.TakesCommands ∧ f.bin = b.val ∧ f.position = p.val ∧
      1 ≤ f.position ∧ f.position ≤ 30 ∧ 1 ≤ f.materials ∧ f.materials ≤ 15 ∧ 1 ≤ f.capacity ∧ f.capacity ≤ 9999 ∧
      1 ≤ f.nearFull ∧ f.nearFull ≤ f.capacity ∧ f.interval ≤ 255 ∧ f.fill ≤ f.capacity ∧ (∀ b' : BinId, b' ≠ b →
      (s.bin b').configured = true → (s.bin b').position.val ≠ f.position) ∧ (s.bin b).state = .unconfigured ∧
      (s.bin b).seating = .seated) ∧
    (∃ (s : State) (f : SetBinFields) (b : BinId) (p : Position), s.TakesCommands ∧ f.bin = b.val ∧ f.position = p.val ∧
      1 ≤ f.position ∧ f.position ≤ 30 ∧ 1 ≤ f.materials ∧ f.materials ≤ 15 ∧ 1 ≤ f.capacity ∧ f.capacity ≤ 9999 ∧
      1 ≤ f.nearFull ∧ f.nearFull ≤ f.capacity ∧ f.interval ≤ 255 ∧ f.fill ≤ f.capacity ∧ (∀ b' : BinId, b' ≠ b →
      (s.bin b').configured = true → (s.bin b').position.val ≠ f.position) ∧ (s.bin b).state ≠ .unconfigured ∧
      (s.bin b).state ≠ .absent ∧ (s.bin b).state ≠ .service) ∧
    (∃ (s : State) (f : SetBinFields), s.TakesCommands ∧ (¬ (f.bin ≤ 5 ∧ 1 ≤ f.position ∧ f.position ≤ 30 ∧ 1 ≤ f.materials ∧
      f.materials ≤ 15 ∧ 1 ≤ f.capacity ∧ f.capacity ≤ 9999 ∧ 1 ≤ f.nearFull ∧ f.nearFull ≤ f.capacity ∧ f.interval ≤ 255 ∧
      f.fill ≤ f.capacity))) ∧
    (∃ (s : State) (f : SetBinFields) (b b' : BinId), s.TakesCommands ∧ f.bin = b.val ∧ b' ≠ b ∧ (s.bin b').configured = true ∧
      (s.bin b').position.val = f.position) :=
  ⟨⟨partBService, { bin := 1, position := 13, materials := 5, capacity := 1, nearFull := 1, interval := 255, fill := 0 }, 1,
    13, ⟨ready_partBService, rfl⟩, by decide +kernel⟩,
   ⟨partBAbsent, { bin := 1, position := 13, materials := 1, capacity := 5, nearFull := 1, interval := 255, fill := 0 }, 1, 13,
     ⟨ready_partBAbsent, rfl⟩, by decide +kernel⟩,
   ⟨partBase, { bin := 1, position := 5, materials := 5, capacity := 1, nearFull := 1, interval := 2, fill := 0 }, 1, 5,
     ⟨ready_partBase, rfl⟩, by decide +kernel⟩,
   ⟨partBUnconfSeated,
     { bin := 1, position := 17, materials := 15, capacity := 9999, nearFull := 1, interval := 2, fill := 1 }, 1, 17,
     ⟨ready_partBUnconfSeated, rfl⟩, by decide +kernel⟩,
   ⟨partWeighBin, { bin := 1, position := 2, materials := 5, capacity := 5, nearFull := 1, interval := 255, fill := 2 }, 1, 2,
     ⟨ready_partWeighBin, rfl⟩, by decide +kernel⟩,
   ⟨partBase, { bin := 0, position := 31, materials := 1, capacity := 9999, nearFull := 1, interval := 255, fill := 1 },
     ⟨ready_partBase, rfl⟩, by decide +kernel⟩,
   ⟨partWeighBin, { bin := 3, position := 5, materials := 1, capacity := 1, nearFull := 1, interval := 2, fill := 2 }, 3, 1,
     ⟨ready_partWeighBin, rfl⟩, by decide +kernel⟩⟩

theorem test_witness_SetLaneWritesClosedLanes :
    (∃ (s : State) (f : SetLaneFields) (l : Lane), s.TakesCommands ∧ f.lane = l.val ∧ 1 ≤ f.beltPitch ∧ f.beltPitch ≤ 8 ∧
      10 ≤ f.stopDistance ∧ f.stopDistance ≤ 400 ∧ 40 ≤ f.maxLength ∧ f.maxLength ≤ 400 ∧ 4 ≤ f.settleCount ∧
      f.settleCount ≤ 64 ∧ 1 ≤ f.stabilityLimit ∧ f.stabilityLimit ≤ 4096 ∧ 1 ≤ f.attempts ∧ f.attempts ≤ 7 ∧
      f.autoZeroInterval ≤ 600 ∧ f.zeroBand ≤ 200 ∧ f.queryEnabled ≤ 1 ∧ 1 ≤ f.itemCap ∧ f.itemCap ≤ 500 ∧ 100 ≤ f.valueCap ∧
      f.valueCap ≤ 100000 ∧ 1 ≤ f.standbyTime ∧ f.standbyTime ≤ 600 ∧ f.dormantTime ≤ 3600 ∧ 10 ≤ f.sessionIdleTime ∧
      f.sessionIdleTime ≤ 600 ∧ 200 ≤ f.handoffTime ∧ f.handoffTime ≤ 5000 ∧ 50 ≤ f.returnTravel ∧ f.returnTravel ≤ 1000 ∧
      -8388608 ≤ f.zero ∧ f.zero ≤ 8388607 ∧ f.span ≤ 65535 ∧ (s.lane l).state = .closed) ∧
    (∃ (s : State) (f : SetLaneFields), s.TakesCommands ∧ f.lane = 255 ∧ 1 ≤ f.beltPitch ∧ f.beltPitch ≤ 8 ∧
      10 ≤ f.stopDistance ∧ f.stopDistance ≤ 400 ∧ 40 ≤ f.maxLength ∧ f.maxLength ≤ 400 ∧ 4 ≤ f.settleCount ∧
      f.settleCount ≤ 64 ∧ 1 ≤ f.stabilityLimit ∧ f.stabilityLimit ≤ 4096 ∧ 1 ≤ f.attempts ∧ f.attempts ≤ 7 ∧
      f.autoZeroInterval ≤ 600 ∧ f.zeroBand ≤ 200 ∧ f.queryEnabled ≤ 1 ∧ 1 ≤ f.itemCap ∧ f.itemCap ≤ 500 ∧ 100 ≤ f.valueCap ∧
      f.valueCap ≤ 100000 ∧ 1 ≤ f.standbyTime ∧ f.standbyTime ≤ 600 ∧ f.dormantTime ≤ 3600 ∧ 10 ≤ f.sessionIdleTime ∧
      f.sessionIdleTime ≤ 600 ∧ 200 ≤ f.handoffTime ∧ f.handoffTime ≤ 5000 ∧ 50 ≤ f.returnTravel ∧ f.returnTravel ≤ 1000 ∧
      -8388608 ≤ f.zero ∧ f.zero ≤ 8388607 ∧ f.span ≤ 65535 ∧ (∀ l : Lane, (s.lane l).state = .closed)) ∧
    (∃ (s : State) (f : SetLaneFields) (l : Lane), s.TakesCommands ∧ (f.lane = l.val ∨ f.lane = 255) ∧ 1 ≤ f.beltPitch ∧
      f.beltPitch ≤ 8 ∧ 10 ≤ f.stopDistance ∧ f.stopDistance ≤ 400 ∧ 40 ≤ f.maxLength ∧ f.maxLength ≤ 400 ∧ 4 ≤ f.settleCount ∧
      f.settleCount ≤ 64 ∧ 1 ≤ f.stabilityLimit ∧ f.stabilityLimit ≤ 4096 ∧ 1 ≤ f.attempts ∧ f.attempts ≤ 7 ∧
      f.autoZeroInterval ≤ 600 ∧ f.zeroBand ≤ 200 ∧ f.queryEnabled ≤ 1 ∧ 1 ≤ f.itemCap ∧ f.itemCap ≤ 500 ∧ 100 ≤ f.valueCap ∧
      f.valueCap ≤ 100000 ∧ 1 ≤ f.standbyTime ∧ f.standbyTime ≤ 600 ∧ f.dormantTime ≤ 3600 ∧ 10 ≤ f.sessionIdleTime ∧
      f.sessionIdleTime ≤ 600 ∧ 200 ≤ f.handoffTime ∧ f.handoffTime ≤ 5000 ∧ 50 ≤ f.returnTravel ∧ f.returnTravel ≤ 1000 ∧
      -8388608 ≤ f.zero ∧ f.zero ≤ 8388607 ∧ f.span ≤ 65535 ∧ (s.lane l).state ≠ .closed) ∧
    (∃ (s : State) (f : SetLaneFields), s.TakesCommands ∧ (¬ ((f.lane ≤ 3 ∨ f.lane = 255) ∧ 1 ≤ f.beltPitch ∧ f.beltPitch ≤ 8 ∧
      10 ≤ f.stopDistance ∧ f.stopDistance ≤ 400 ∧ 40 ≤ f.maxLength ∧ f.maxLength ≤ 400 ∧ 4 ≤ f.settleCount ∧
      f.settleCount ≤ 64 ∧ 1 ≤ f.stabilityLimit ∧ f.stabilityLimit ≤ 4096 ∧ 1 ≤ f.attempts ∧ f.attempts ≤ 7 ∧
      f.autoZeroInterval ≤ 600 ∧ f.zeroBand ≤ 200 ∧ f.queryEnabled ≤ 1 ∧ 1 ≤ f.itemCap ∧ f.itemCap ≤ 500 ∧ 100 ≤ f.valueCap ∧
      f.valueCap ≤ 100000 ∧ 1 ≤ f.standbyTime ∧ f.standbyTime ≤ 600 ∧ f.dormantTime ≤ 3600 ∧ 10 ≤ f.sessionIdleTime ∧
      f.sessionIdleTime ≤ 600 ∧ 200 ≤ f.handoffTime ∧ f.handoffTime ≤ 5000 ∧ 50 ≤ f.returnTravel ∧ f.returnTravel ≤ 1000 ∧
      -8388608 ≤ f.zero ∧ f.zero ≤ 8388607 ∧ f.span ≤ 65535))) :=
  ⟨⟨partBase,
    { lane := 0, beltPitch := 8, stopDistance := 10, maxLength := 40, settleCount := 4, stabilityLimit := 4096, attempts := 2, autoZeroInterval := 30, zeroBand := 20, queryEnabled := 1, itemCap := 5, valueCap := 100, standbyTime := 15, dormantTime := 120, sessionIdleTime := 90, handoffTime := 5000, returnTravel := 60, zero := 5, span := 65535 }, 0, ⟨ready_partBase, rfl⟩, by decide +kernel⟩,
   ⟨partBase,
     { lane := 255, beltPitch := 2, stopDistance := 10, maxLength := 40, settleCount := 4, stabilityLimit := 4096, attempts := 2, autoZeroInterval := 30, zeroBand := 20, queryEnabled := 0, itemCap := 5, valueCap := 100, standbyTime := 15, dormantTime := 120, sessionIdleTime := 90, handoffTime := 5000, returnTravel := 60, zero := 5, span := 65535 }, ⟨ready_partBase, rfl⟩, by decide +kernel⟩,
   ⟨partReady,
     { lane := 0, beltPitch := 8, stopDistance := 10, maxLength := 40, settleCount := 4, stabilityLimit := 4096, attempts := 2, autoZeroInterval := 30, zeroBand := 20, queryEnabled := 1, itemCap := 5, valueCap := 100, standbyTime := 15, dormantTime := 120, sessionIdleTime := 90, handoffTime := 5000, returnTravel := 60, zero := -8388608, span := 0 }, 0, ⟨ready_partReady, rfl⟩, by decide +kernel⟩,
   ⟨partBase,
     { lane := 3, beltPitch := 8, stopDistance := 10, maxLength := 40, settleCount := 4, stabilityLimit := 4096, attempts := 2, autoZeroInterval := 30, zeroBand := 20, queryEnabled := 1, itemCap := 5, valueCap := 100, standbyTime := 15, dormantTime := 120, sessionIdleTime := 90, handoffTime := 5001, returnTravel := 60, zero := -8388609, span := 65536 }, ⟨ready_partBase, rfl⟩, by decide +kernel⟩⟩

theorem test_witness_SetCornerWritesTheCorner :
    (∃ (s : State) (f : SetCornerFields), s.TakesCommands ∧ 100 ≤ f.queryTimeout ∧ f.queryTimeout ≤ 10000 ∧
      f.supervisionTime ≤ 60 ∧ 100 ≤ f.startTime ∧ f.startTime ≤ 3000 ∧ 200 ≤ f.stallTime ∧ f.stallTime ≤ 5000 ∧
      1 ≤ f.runOutTime ∧ f.runOutTime ≤ 120 ∧ 100 ≤ f.pocketReleaseTime ∧ f.pocketReleaseTime ≤ 2000 ∧ 1 ≤ f.catchCapacity ∧
      f.catchCapacity ≤ 250 ∧ (f.catchCapacity ≤ s.catchCount ↔ s.corner.catchCapacity ≤ s.catchCount)) ∧
    (∃ (s : State) (f : SetCornerFields), s.TakesCommands ∧ 100 ≤ f.queryTimeout ∧ f.queryTimeout ≤ 10000 ∧
      f.supervisionTime ≤ 60 ∧ 100 ≤ f.startTime ∧ f.startTime ≤ 3000 ∧ 200 ≤ f.stallTime ∧ f.stallTime ≤ 5000 ∧
      1 ≤ f.runOutTime ∧ f.runOutTime ≤ 120 ∧ 100 ≤ f.pocketReleaseTime ∧ f.pocketReleaseTime ≤ 2000 ∧ 1 ≤ f.catchCapacity ∧
      f.catchCapacity ≤ 250) ∧
    (∃ (s : State) (f : SetCornerFields), s.TakesCommands ∧ 100 ≤ f.queryTimeout ∧ f.queryTimeout ≤ 10000 ∧
      f.supervisionTime ≤ 60 ∧ 100 ≤ f.startTime ∧ f.startTime ≤ 3000 ∧ 200 ≤ f.stallTime ∧ f.stallTime ≤ 5000 ∧
      1 ≤ f.runOutTime ∧ f.runOutTime ≤ 120 ∧ 100 ≤ f.pocketReleaseTime ∧ f.pocketReleaseTime ≤ 2000 ∧ 1 ≤ f.catchCapacity ∧
      f.catchCapacity ≤ 250 ∧ f.catchCapacity ≤ s.catchCount ∧ s.catchCount < s.corner.catchCapacity) ∧
    (∃ (s : State) (f : SetCornerFields), s.TakesCommands ∧ (¬ (100 ≤ f.queryTimeout ∧ f.queryTimeout ≤ 10000 ∧
      f.supervisionTime ≤ 60 ∧ 100 ≤ f.startTime ∧ f.startTime ≤ 3000 ∧ 200 ≤ f.stallTime ∧ f.stallTime ≤ 5000 ∧
      1 ≤ f.runOutTime ∧ f.runOutTime ≤ 120 ∧ 100 ≤ f.pocketReleaseTime ∧ f.pocketReleaseTime ≤ 2000 ∧ 1 ≤ f.catchCapacity ∧
      f.catchCapacity ≤ 250))) :=
  ⟨⟨partBase,
    { queryTimeout := 10000, supervisionTime := 0, startTime := 3000, stallTime := 200, runOutTime := 120, pocketReleaseTime := 100, catchCapacity := 1 }, ⟨ready_partBase, rfl⟩, by decide +kernel⟩,
   ⟨partBase,
     { queryTimeout := 100, supervisionTime := 10, startTime := 3000, stallTime := 200, runOutTime := 1, pocketReleaseTime := 100, catchCapacity := 3 }, ⟨ready_partBase, rfl⟩, by decide +kernel⟩,
   ⟨partCatch59,
     { queryTimeout := 10000, supervisionTime := 60, startTime := 3000, stallTime := 200, runOutTime := 1, pocketReleaseTime := 100, catchCapacity := 5 }, ⟨ready_partCatch59, rfl⟩, by decide +kernel⟩,
   ⟨partBase,
     { queryTimeout := 10000, supervisionTime := 10, startTime := 3000, stallTime := 200, runOutTime := 121, pocketReleaseTime := 100, catchCapacity := 251 }, ⟨ready_partBase, rfl⟩, by decide +kernel⟩⟩

theorem test_witness_OpenLaneOpensACalibratedLane :
    (∃ (s : State) (l : Lane), s.TakesCommands ∧ (s.lane l).state ≠ .closed) ∧
    (∃ (s : State) (l : Lane), s.TakesCommands ∧ (s.lane l).state = .closed ∧ (s.lane l).span = 0) ∧
    (∃ (s : State) (l : Lane), s.TakesCommands ∧ (s.lane l).state = .closed ∧ (s.lane l).span ≠ 0 ∧ (∀ c : ClassId,
      (s.classAt c).enabled = false)) ∧
    (∃ (s : State) (l : Lane) (c : ClassId), s.TakesCommands ∧ (s.lane l).state = .closed ∧ (s.lane l).span ≠ 0 ∧
      (s.classAt c).enabled = true ∧ (s.lane l).session.state = .none) ∧
    (∃ (s : State) (n : Nat), s.TakesCommands ∧ 3 < n) :=
  ⟨⟨partReady, 0, ⟨ready_partReady, rfl⟩, by decide +kernel⟩,
   ⟨partBase, 0, ⟨ready_partBase, rfl⟩, by decide +kernel⟩,
   ⟨partNoClass, 0, ⟨ready_partNoClass, rfl⟩, by decide +kernel⟩,
   ⟨partClosedLane, 0, 1, ⟨ready_partClosedLane, rfl⟩, by decide +kernel⟩,
   ⟨partBase, 4, ⟨ready_partBase, rfl⟩, by decide +kernel⟩⟩

theorem test_witness_CloseRequestsCloseTheSessionAndTheLane :
    (∃ (s : State) (l : Lane), s.TakesCommands ∧ ((s.lane l).state = .closed ∨ (s.lane l).closePending = true)) ∧
    (∃ (s : State) (l : Lane), s.TakesCommands ∧ (s.lane l).state ≠ .closed ∧ (s.lane l).closePending = false ∧
      (s.lane l).record = none ∧ (s.lane l).session.state = .none ∧ (s.lane l).calRunning = false) ∧
    (∃ (s : State) (l : Lane), s.TakesCommands ∧ (s.lane l).state ≠ .closed ∧ (s.lane l).closePending = false ∧
      ((s.lane l).record ≠ none ∨ (s.lane l).calRunning = true ∨ (s.lane l).session.state = .closing) ∧
      (s.lane l).session.state ≠ .opened) ∧
    (∃ (s : State) (l : Lane) (r : ContainerRecord), s.TakesCommands ∧ (s.lane l).state ≠ .closed ∧ (s.lane l).closePending =
      false ∧ (s.lane l).record = some r ∧ r.verdict = some .accept ∧ (s.lane l).session.state = .opened ∧
      (s.lane l).session.voucherWaiting = false) ∧
    (∃ (s : State) (l : Lane), s.TakesCommands ∧ (s.lane l).state ≠ .closed ∧ (s.lane l).closePending = false ∧
      (s.lane l).holdsAccept = false ∧ (s.lane l).session.state = .opened ∧ (s.lane l).session.voucherWaiting = false) ∧
    (∃ (s : State) (n : Nat), s.TakesCommands ∧ 3 < n) ∧
    (∃ (s : State) (l : Lane), s.Ready ∧ (s.lane l).state = .closed) ∧
    (∃ (s : State) (l : Lane), s.Ready ∧ (s.lane l).state ≠ .closed ∧ (s.lane l).state ≠ .standby ∧
      (s.lane l).state ≠ .dormant ∧ (s.lane l).session.state ≠ .opened) ∧
    (∃ (s : State) (l : Lane), s.Ready ∧ ((s.lane l).state = .standby ∨ (s.lane l).state = .dormant) ∧
      (s.lane l).session.state ≠ .opened) ∧
    (∃ (s : State) (l : Lane) (r : ContainerRecord), s.Ready ∧ (s.lane l).state ≠ .closed ∧ (s.lane l).record = some r ∧
      r.verdict = some .accept ∧ (s.lane l).state ≠ .standby ∧ (s.lane l).state ≠ .dormant ∧ (s.lane l).session.state =
      .opened ∧ (s.lane l).session.voucherWaiting = false ∧ (s.lane l).holds.sessionClosing = false) ∧
    (∃ (s : State) (l : Lane), s.Ready ∧ (s.lane l).state ≠ .closed ∧ (s.lane l).holdsAccept = false ∧
      (s.lane l).holds.sessionClosing = false ∧ (s.lane l).session.state = .opened ∧ (s.lane l).session.voucherWaiting = false) ∧
    (∃ (s : State) (l : Lane) (x : Scan), s.Ready ∧ (s.lane l).state ≠ .closed ∧ x.dark = 0#8 ∧ ((s.lane l).curtain.phase =
      .none ∨ (s.lane l).curtain.phase = .ended) ∧ (s.lane l).mouth.settled = x.mouth ∧ (s.lane l).mouth.pending = false ∧
      (s.lane l).button = ⟨false, true⟩ ∧ x.button = true ∧ (s.lane l).holdsAccept = false ∧ (s.lane l).holds.sessionClosing =
      false ∧ (s.lane l).session.state = .opened ∧ (s.lane l).session.voucherWaiting = false) ∧
    (∃ (s : State) (l : Lane) (x : Scan), s.Ready ∧ (s.lane l).state ≠ .closed ∧ x.dark = 0#8 ∧ ((s.lane l).curtain.phase =
      .none ∨ (s.lane l).curtain.phase = .ended) ∧ (s.lane l).mouth.settled = x.mouth ∧ (s.lane l).mouth.pending = false ∧
      (s.lane l).button = ⟨false, true⟩ ∧ x.button = true ∧ ((s.lane l).session.state ≠ .opened ∨ (s.lane l).holdsAccept =
      true)) ∧
    (∃ (s : State) (l : Lane) (x : Scan), s.Ready ∧ (s.lane l).state ≠ .closed ∧ x.dark = 0#8 ∧ ((s.lane l).curtain.phase =
      .none ∨ (s.lane l).curtain.phase = .ended) ∧ (s.lane l).mouth.settled = x.mouth ∧ (s.lane l).mouth.pending = false ∧
      (s.lane l).button = ⟨true, true⟩ ∧ x.button = false) ∧
    (∃ (s : State) (l : Lane), s.Ready ∧ ((s.lane l).state = .closed ∨ (s.lane l).record ≠ none ∨
      (s.lane l).session.state ≠ .opened)) ∧
    (∃ (s : State) (l : Lane), s.Ready ∧ (s.lane l).state ≠ .closed ∧ (s.lane l).record = none ∧
      (s.lane l).holds.sessionClosing = false ∧ (s.lane l).session.state = .opened ∧ (s.lane l).session.voucherWaiting = false) ∧
    (∃ (s : State) (l : Lane), s.resetAsserted = false ∧ s.link.intake = [] ∧ (s.lane l).session.state = .closing ∧
      (s.lane l).session.voucherWaiting = false ∧ (s.lane l).holdsAccept = false ∧ s.outbox = [] ∧ (∀ r ∈ s.link.heldOut,
      r.isVoucherOf l = false)) ∧
    (∃ (s : State) (l : Lane), (s.setLane l { s.lane l with
        session := { (s.lane l).session with voucherWaiting := true } }).Ready
        ∧ (s.lane l).session.state = .closing ∧ (s.lane l).session.voucherWaiting = false ∧ (s.lane l).holdsAccept = false ∧
          (s.lane l).holds.sessionClosing = true ∧ (s.lane l).mouth.settled = false) ∧
    (∃ (s : State) (l : Lane), (s.setLane l { s.lane l with
        session := { (s.lane l).session with voucherWaiting := true } }).Ready
        ∧ (s.lane l).session.state = .closing ∧ (s.lane l).session.voucherWaiting = false ∧ (s.lane l).holdsAccept = false ∧
          (s.lane l).holds = ⟨false, false, true, false⟩ ∧ (s.lane l).mouth.settled = true ∧ (s.lane l).state = .ready ∧
          (s.lane l).calRunning = false ∧ (s.lane l).closePending = false ∧ s.link.queue.length < 32) ∧
    (∃ (s : State), s.Ready) :=
  ⟨⟨partBase, 0, ⟨ready_partBase, rfl⟩, by decide +kernel⟩,
   ⟨partReady, 0, ⟨ready_partReady, rfl⟩, by decide +kernel⟩,
   ⟨partReadyHeld, 0, ⟨ready_partReadyHeld, rfl⟩, by decide +kernel⟩,
   ⟨partHold, 0, ((partHold.lane 0).record.getD default), ⟨ready_partHold, rfl⟩, by decide +kernel⟩,
   ⟨partReadySess, 0, ⟨ready_partReadySess, rfl⟩, by decide +kernel⟩,
   ⟨partBase, 4, ⟨ready_partBase, rfl⟩, by decide +kernel⟩,
   ⟨partBase, 0, ready_partBase, by decide +kernel⟩,
   ⟨partLostReply, 0, ready_partLostReply, by decide +kernel⟩,
   ⟨partStandby, 0, ready_partStandby, by decide +kernel⟩,
   ⟨partHold, 0, ((partHold.lane 0).record.getD default), ready_partHold, by decide +kernel⟩,
   ⟨partReadySess, 0, ready_partReadySess, by decide +kernel⟩,
   ⟨partReadyBtn, 0,
     { lit0 := 0xff#8, lit1 := 0xff#8, lit2 := 0xff#8, lit3 := 0xff#8, dark := 0x00#8, mouth := false, button := true },
     ready_partReadyBtn, by decide +kernel⟩,
   ⟨partReadyBtnNone, 0,
     { lit0 := 0xf6#8, lit1 := 0xff#8, lit2 := 0xff#8, lit3 := 0xff#8, dark := 0x00#8, mouth := false, button := true },
     ready_partReadyBtnNone, by decide +kernel⟩,
   ⟨partReadyBtnUp, 0,
     { lit0 := 0x00#8, lit1 := 0xfe#8, lit2 := 0xff#8, lit3 := 0xff#8, dark := 0x00#8, mouth := false, button := false },
     ready_partReadyBtnUp, by decide +kernel⟩,
   ⟨partBase, 0, ready_partBase, by decide +kernel⟩,
   ⟨partReadySess, 0, ready_partReadySess, by decide +kernel⟩,
   ⟨partDueVMouth, 0, by decide +kernel⟩,
   ⟨partDueVoucher, 0, by decide +kernel⟩,
   ⟨partDueVMouth, 0, by decide +kernel⟩,
   ⟨partBase, ready_partBase⟩⟩

theorem test_witness_ZeroAndSpanStartARun :
    (∃ (s : State) (l : Lane), s.TakesCommands ∧ (s.lane l).state = .ready ∧ (s.lane l).calRunning = false) ∧
    (∃ (s : State) (l : Lane), s.TakesCommands ∧ (s.lane l).state = .standby ∧ (s.lane l).calRunning = false) ∧
    (∃ (s : State) (l : Lane), s.TakesCommands ∧ (((s.lane l).state ≠ .ready ∧ (s.lane l).state ≠ .standby) ∨
      (s.lane l).calRunning = true)) ∧
    (∃ (s : State) (l : Lane) (m : Nat), s.TakesCommands ∧ 100 ≤ m ∧ m ≤ 20000 ∧ (s.lane l).state = .ready ∧
      (s.lane l).calRunning = false) ∧
    (∃ (s : State) (l : Lane) (m : Nat), s.TakesCommands ∧ 100 ≤ m ∧ m ≤ 20000 ∧ (s.lane l).state = .standby ∧
      (s.lane l).calRunning = false) ∧
    (∃ (s : State) (l : Lane) (m : Nat), s.TakesCommands ∧ 100 ≤ m ∧ m ≤ 20000 ∧ (((s.lane l).state ≠ .ready ∧
      (s.lane l).state ≠ .standby) ∨ (s.lane l).calRunning = true)) ∧
    (∃ (s : State) (n : Nat), s.TakesCommands ∧ 3 < n) ∧
    (∃ (s : State) (n m : Nat), s.TakesCommands ∧ (3 < n ∨ m < 100 ∨ 20000 < m)) :=
  ⟨⟨partReady, 0, ⟨ready_partReady, rfl⟩, by decide +kernel⟩,
   ⟨partStandby, 0, ⟨ready_partStandby, rfl⟩, by decide +kernel⟩,
   ⟨partBase, 0, ⟨ready_partBase, rfl⟩, by decide +kernel⟩,
   ⟨partReady, 0, 100, ⟨ready_partReady, rfl⟩, by decide +kernel⟩,
   ⟨partStandby, 0, 500, ⟨ready_partStandby, rfl⟩, by decide +kernel⟩,
   ⟨partBase, 0, 100, ⟨ready_partBase, rfl⟩, by decide +kernel⟩,
   ⟨partBase, 4, ⟨ready_partBase, rfl⟩, by decide +kernel⟩,
   ⟨partBase, 4, 10, ⟨ready_partBase, rfl⟩, by decide +kernel⟩⟩

theorem test_witness_CodeAnswerDecidesTheQuery :
    (∃ (s : State) (l : Lane) (seq : Nat) (code : Code) (r : ContainerRecord), s.TakesCommands ∧ (s.lane l).query.subject =
      some (seq, code) ∧ seq ≠ 0 ∧ (s.lane l).state = .query ∧ (s.lane l).record = some r ∧ r.verdict = none ∧ r.destination =
      none) ∧
    (∃ (s : State) (l : Lane) (seq : Nat) (code : Code) (r : ContainerRecord) (c : ClassId) (reason : Reason),
      s.TakesCommands ∧ (s.lane l).query.subject = some (seq, code) ∧ seq ≠ 0 ∧ (s.lane l).state = .query ∧ (s.lane l).record =
      some r ∧ r.verdict = none ∧ r.destination = none ∧ s.classReason l r c = some reason) ∧
    (∃ (s : State) (l : Lane) (seq : Nat) (code : Code) (r : ContainerRecord) (c : ClassId), s.TakesCommands ∧
      (s.lane l).query.subject = some (seq, code) ∧ seq ≠ 0 ∧ (s.lane l).state = .query ∧ (s.lane l).record = some r ∧
      r.verdict = none ∧ r.destination = none ∧ s.classReason l r c = none ∧
      s.chooseBin (s.classAt c).material (s.classAt c).preferred = none) ∧
    (∃ (s : State) (l : Lane) (seq : Nat) (code : Code) (r : ContainerRecord) (c : ClassId) (b : BinId), s.TakesCommands ∧
      (s.lane l).query.subject = some (seq, code) ∧ seq ≠ 0 ∧ (s.lane l).state = .query ∧ (s.lane l).record = some r ∧
      r.verdict = none ∧ r.destination = none ∧ s.classReason l r c = none ∧
      s.chooseBin (s.classAt c).material (s.classAt c).preferred = some b) ∧
    (∃ (s : State) (l : Lane) (seq a : Nat), s.TakesCommands ∧ seq ≠ 0 ∧ (a ≤ 15 ∨ a = 255) ∧
      (s.lane l).query.subject.map (·.1) ≠ some seq) ∧
    (∃ (s : State) (n seq a : Nat), s.TakesCommands ∧ (3 < n ∨ seq = 0 ∨ (15 < a ∧ a ≠ 255))) :=
  ⟨⟨partQuery, 0, 7, { length := 13, value := 5 }, ((partQuery.lane 0).record.getD default), ⟨ready_partQuery, rfl⟩,
    by decide +kernel⟩,
   ⟨partQuery, 0, 7, { length := 13, value := 5 }, ((partQuery.lane 0).record.getD default), 0, .classOff, ⟨ready_partQuery,
     rfl⟩, by decide +kernel⟩,
   ⟨partQuery, 0, 7, { length := 13, value := 5 }, ((partQuery.lane 0).record.getD default), 1, ⟨ready_partQuery, rfl⟩,
     by decide +kernel⟩,
   ⟨partQueryBin, 0, 7, { length := 13, value := 5 }, ((partQueryBin.lane 0).record.getD default), 1, 1, ⟨ready_partQueryBin,
     rfl⟩, by decide +kernel⟩,
   ⟨partBase, 0, 2, 3, ⟨ready_partBase, rfl⟩, by decide +kernel⟩,
   ⟨partBase, 4, 7, 6, ⟨ready_partBase, rfl⟩, by decide +kernel⟩⟩

theorem test_witness_BinServiceAndClearBinMoveTheBin :
    (∃ (s : State) (b : BinId), s.TakesCommands ∧ ((s.bin b).state = .opened ∨ (s.bin b).state = .compactPending ∨
      (s.bin b).state = .full ∨ (s.bin b).state = .fault) ∧ s.holders b = 0) ∧
    (∃ (s : State) (b : BinId), s.TakesCommands ∧ ((s.bin b).state = .opened ∨ (s.bin b).state = .compactPending ∨
      (s.bin b).state = .full ∨ (s.bin b).state = .fault) ∧ s.LanesCoherent ∧ s.MergeCoherent) ∧
    (∃ (s : State) (b : BinId), s.TakesCommands ∧ (¬ ((s.bin b).state = .opened ∨ (s.bin b).state = .compactPending ∨
      (s.bin b).state = .full ∨ (s.bin b).state = .fault))) ∧
    (∃ (s : State) (m : Nat), s.TakesCommands ∧ 5 < m) ∧
    (∃ (s : State) (b : BinId) (n : Nat), s.TakesCommands ∧ (s.bin b).state = .service ∧ n ≤ (s.bin b).capacity ∧
      (s.bin b).seating = .seated) ∧
    (∃ (s : State) (b : BinId) (n : Nat), s.TakesCommands ∧ (s.bin b).state = .service ∧ n ≤ (s.bin b).capacity ∧
      (s.bin b).seating ≠ .seated) ∧
    (∃ (s : State) (b : BinId) (n : Nat), s.TakesCommands ∧ (s.bin b).state ≠ .service ∧ n ≤ (s.bin b).capacity) ∧
    (∃ (s : State) (b : BinId) (n : Nat), s.TakesCommands ∧ (s.bin b).capacity < n) ∧
    (∃ (s : State) (m : Nat), s.TakesCommands ∧ 5 < m) ∧
    (∃ (s : State) (b : BinId), s.TakesCommands ∧ (s.bin b).state = .fault ∧ (s.bin b).seating = .seated ∧ (s.bin b).ready =
      true) ∧
    (∃ (s : State) (b : BinId), s.TakesCommands ∧ (s.bin b).state = .fault ∧ (s.bin b).seating = .seated ∧ (s.bin b).ready =
      false) ∧
    (∃ (s : State) (b : BinId), s.TakesCommands ∧ (s.bin b).state = .fault ∧ (s.bin b).seating ≠ .seated) ∧
    (∃ (s : State) (b : BinId), s.TakesCommands ∧ (s.bin b).state ≠ .fault) ∧
    (∃ (s : State) (m : Nat), s.TakesCommands ∧ 5 < m) :=
  ⟨⟨partWeighBin, 1, ⟨ready_partWeighBin, rfl⟩, by decide +kernel⟩,
   ⟨partWeighBin, 1, ⟨ready_partWeighBin, rfl⟩, by decide +kernel⟩,
   ⟨partBase, 1, ⟨ready_partBase, rfl⟩, by decide +kernel⟩,
   ⟨partBase, 6, ⟨ready_partBase, rfl⟩, by decide +kernel⟩,
   ⟨partBService, 1, 4, ⟨ready_partBService, rfl⟩, by decide +kernel⟩,
   ⟨partBServiceOut, 1, 4, ⟨ready_partBServiceOut, rfl⟩, by decide +kernel⟩,
   ⟨partBase, 1, 0, ⟨ready_partBase, rfl⟩, by decide +kernel⟩,
   ⟨partBase, 1, 1, ⟨ready_partBase, rfl⟩, by decide +kernel⟩,
   ⟨partBase, 6, ⟨ready_partBase, rfl⟩, by decide +kernel⟩,
   ⟨partBFault, 1, ⟨ready_partBFault, rfl⟩, by decide +kernel⟩,
   ⟨partBFaultNR, 1, ⟨ready_partBFaultNR, rfl⟩, by decide +kernel⟩,
   ⟨partBFaultBoth, 1, ⟨ready_partBFaultBoth, rfl⟩, by decide +kernel⟩,
   ⟨partBase, 1, ⟨ready_partBase, rfl⟩, by decide +kernel⟩,
   ⟨partBase, 6, ⟨ready_partBase, rfl⟩, by decide +kernel⟩⟩

theorem test_witness_ClearConveyorRestartsAfterAStall :
    (∃ (s : State), s.TakesCommands ∧ s.conveyor = .fault) ∧
    (∃ (s : State), s.TakesCommands ∧ s.conveyor ≠ .fault) :=
  ⟨⟨partConvFault, ⟨ready_partConvFault, rfl⟩, by decide +kernel⟩,
   ⟨partBase, ⟨ready_partBase, rfl⟩, by decide +kernel⟩⟩

theorem test_witness_CornerCommandsAct :
    (∃ (s : State), s.TakesCommands ∧ s.catchCount < s.corner.catchCapacity) ∧
    (∃ (s : State), s.TakesCommands) ∧
    (∃ (s : State), s.TakesCommands ∧ (s.pocket = .fault ∨ s.pocket = .foreign) ∧ s.pocketBeam = false) ∧
    (∃ (s : State), s.TakesCommands ∧ (¬ ((s.pocket = .fault ∨ s.pocket = .foreign) ∧ s.pocketBeam = false))) ∧
    (∃ (s : State), s.TakesCommands ∧ s.conveyor ≠ .halted) ∧
    (∃ (s : State), s.TakesCommands ∧ s.conveyor = .halted) ∧
    (∃ (s : State), s.TakesCommands ∧ s.conveyor = .halted) ∧
    (∃ (s : State), s.TakesCommands ∧ s.conveyor ≠ .halted) :=
  ⟨⟨partBase, ⟨ready_partBase, rfl⟩, by decide +kernel⟩,
   ⟨partBase, ⟨ready_partBase, rfl⟩⟩,
   ⟨partPocketForeignClear, ⟨ready_partPocketForeignClear, rfl⟩, by decide +kernel⟩,
   ⟨partBase, ⟨ready_partBase, rfl⟩, by decide +kernel⟩,
   ⟨partBase, ⟨ready_partBase, rfl⟩, by decide +kernel⟩,
   ⟨partRingStop, ⟨ready_partRingStop, rfl⟩, by decide +kernel⟩,
   ⟨partRingStop, ⟨ready_partRingStop, rfl⟩, by decide +kernel⟩,
   ⟨partBase, ⟨ready_partBase, rfl⟩, by decide +kernel⟩⟩

theorem test_witness_ClearLaneResolvesTheRecord :
    (∃ (s : State) (l : Lane) (r : ContainerRecord), s.TakesCommands ∧ (s.lane l).state = .fault ∧ (s.lane l).record = some r ∧
      r.verdict = some .accept ∧ (s.lane l).mouth.settled = false ∧ l ∉ s.requests) ∧
    (∃ (s : State) (l : Lane), s.TakesCommands ∧ (¬ ((s.lane l).state = .fault ∧ (s.lane l).holdsAccept = true ∧
      (s.lane l).mouth.settled = false))) ∧
    (∃ (s : State) (l : Lane) (r : ContainerRecord), s.TakesCommands ∧ ((s.lane l).state = .fault ∨ (s.lane l).state = .query ∨
      (s.lane l).state = .hold) ∧ (s.lane l).record = some r) ∧
    (∃ (s : State) (l : Lane), s.TakesCommands ∧ ((s.lane l).record = none ∨ ¬ ((s.lane l).state = .fault ∨ (s.lane l).state =
      .query ∨ (s.lane l).state = .hold))) ∧
    (∃ (s : State) (l : Lane), s.TakesCommands ∧ ((s.lane l).state = .fault ∨ (s.lane l).state = .query ∨ (s.lane l).state =
      .hold) ∧ (s.lane l).mouth.settled = false ∧ (s.lane l).curtain.settled = 0 ∧ (s.requests.filter (· ≠ l) = s.requests ∨
      (s.lane l).state = .hold)) ∧
    (∃ (s : State) (l : Lane), s.TakesCommands ∧ (¬ (((s.lane l).state = .fault ∨ (s.lane l).state = .query ∨
      (s.lane l).state = .hold) ∧ (s.lane l).mouth.settled = false ∧ (s.lane l).curtain.settled = 0))) ∧
    (∃ (s : State) (n : Nat), s.TakesCommands ∧ 3 < n) ∧
    (∃ (s : State) (n : Nat), s.TakesCommands ∧ 3 < n) ∧
    (∃ (s : State) (n : Nat), s.TakesCommands ∧ 3 < n) :=
  ⟨⟨partFaultAcc, 0, ((partFaultAcc.lane 0).record.getD default), ⟨ready_partFaultAcc, rfl⟩, by decide +kernel⟩,
   ⟨partBase, 0, ⟨ready_partBase, rfl⟩, by decide +kernel⟩,
   ⟨partClosePend, 0, ((partClosePend.lane 0).record.getD default), ⟨ready_partClosePend, rfl⟩, by decide +kernel⟩,
   ⟨partBase, 0, ⟨ready_partBase, rfl⟩, by decide +kernel⟩,
   ⟨partClosePend, 0, ⟨ready_partClosePend, rfl⟩, by decide +kernel⟩,
   ⟨partBase, 0, ⟨ready_partBase, rfl⟩, by decide +kernel⟩,
   ⟨partBase, 4, ⟨ready_partBase, rfl⟩, by decide +kernel⟩,
   ⟨partBase, 4, ⟨ready_partBase, rfl⟩, by decide +kernel⟩,
   ⟨partBase, 4, ⟨ready_partBase, rfl⟩, by decide +kernel⟩⟩

theorem test_witness_QueryAnswersAndChangesNothing :
    (∃ (s : State), s.TakesCommands) ∧
    (∃ (s : State), s.TakesCommands) ∧
    (∃ (s : State), s.TakesCommands) ∧
    (∃ (s : State), s.TakesCommands) ∧
    (∃ (s : State), s.TakesCommands) ∧
    (∃ (s : State) (n : Nat), s.TakesCommands ∧ 3 < n) ∧
    (∃ (s : State) (n : Nat), s.TakesCommands ∧ 5 < n) ∧
    (∃ (s : State) (n : Nat), s.TakesCommands ∧ 3 < n) :=
  ⟨⟨partBase, ⟨ready_partBase, rfl⟩⟩,
   ⟨partBase, ⟨ready_partBase, rfl⟩⟩,
   ⟨partBase, ⟨ready_partBase, rfl⟩⟩,
   ⟨partBase, ⟨ready_partBase, rfl⟩⟩,
   ⟨partBase, ⟨ready_partBase, rfl⟩⟩,
   ⟨partBase, 4, ⟨ready_partBase, rfl⟩, by decide +kernel⟩,
   ⟨partBase, 6, ⟨ready_partBase, rfl⟩, by decide +kernel⟩,
   ⟨partBase, 4, ⟨ready_partBase, rfl⟩, by decide +kernel⟩⟩

theorem test_witness_RestartReturnsEveryBlock :
    (∃ (s : State), s.TakesCommands) ∧
    (∃ (s : State), s.TakesCommands ∧ (¬ ((∃ l : Lane, (s.lane l).session.state ≠ .none ∨ (s.lane l).record ≠ none) ∨
      s.pocket ≠ .empty ∨ ∃ p : Position, s.tokenAt p ≠ none))) ∧
    (∃ (s : State), s.TakesCommands ∧ ((∃ l : Lane, (s.lane l).session.state ≠ .none ∨ (s.lane l).record ≠ none) ∨
      s.pocket ≠ .empty ∨ ∃ p : Position, s.tokenAt p ≠ none)) ∧
    (∃ (s : State) (n : Nat), s.TakesCommands ∧ 1 < n) :=
  ⟨⟨partBase, ⟨ready_partBase, rfl⟩⟩,
   ⟨partBase, ⟨ready_partBase, rfl⟩, by decide +kernel⟩,
   ⟨partReadySess, ⟨ready_partReadySess, rfl⟩, by decide +kernel⟩,
   ⟨partBase, 2, ⟨ready_partBase, rfl⟩, by decide +kernel⟩⟩

theorem test_witness_UnknownKindAndWrongLengthAreAnswered :
    (∃ (s : State) (f : Frame), s.TakesCommands ∧ isCommandKind f.kind = false) ∧
    (∃ (s : State) (i : Instr) (h : CmdHead) (n : Nat) (f : Frame), s.TakesCommands ∧ headOf i = some h ∧ bodyLength i =
      some n ∧ h.len ≠ n ∧ frameOf i = some f) :=
  ⟨⟨partBase, { kind := 0x42#8, tag := 0x41#8, body := [0x02#8, 0x01#8, 0x07#8] }, ⟨ready_partBase, rfl⟩, by decide +kernel⟩,
   ⟨partBase, (.queryCounters { tag := 0x0c#8, len := 0 }), { tag := 0x0c#8, len := 0 }, 1,
     { kind := 0x0e#8, tag := 0x0c#8, body := [] }, ⟨ready_partBase, rfl⟩, by decide +kernel⟩⟩

theorem test_witness_CurtainScanFollowsTheProfile :
    (∃ (s : State) (l : Lane), s.Ready ∧ (s.lane l).state = .closed) ∧
    (∃ (s : State) (l : Lane) (x : Scan), s.Ready ∧ (s.lane l).state ≠ .closed ∧ (s.lane l).scanSettles x = false ∧ x.dark =
      0#8 ∧ ((s.lane l).curtain.phase = .none ∨ (s.lane l).curtain.phase = .ended ∨ (((s.lane l).curtain.phase = .waiting ∨
      (s.lane l).curtain.phase = .stopping) ∧ ((s.lane l).curtain.debounce (scanBeams x)).settled = 0))) ∧
    (∃ (s : State) (l : Lane) (x : Scan) (lo hi : Nat), s.Ready ∧ (s.lane l).state ≠ .closed ∧ (s.lane l).scanSettles x =
      false ∧ x.dark = 0#8 ∧ (s.lane l).curtain.phase = .waiting ∧ runsOf ((s.lane l).curtain.debounce (scanBeams x)).settled =
      [(lo, hi)]) ∧
    (∃ (s : State) (l : Lane) (x : Scan) (lo hi : Nat), s.Ready ∧ (s.lane l).state ≠ .closed ∧ (s.lane l).scanSettles x =
      false ∧ x.dark = 0#8 ∧ (s.lane l).curtain.phase = .passing ∧ runsOf ((s.lane l).curtain.debounce (scanBeams x)).settled =
      [(lo, hi)]) ∧
    (∃ (s : State) (l : Lane) (x : Scan) (r : ContainerRecord), s.Ready ∧ (s.lane l).state ≠ .closed ∧
      (s.lane l).scanSettles x = false ∧ x.dark = 0#8 ∧ (s.lane l).curtain.phase = .passing ∧
      ((s.lane l).curtain.debounce (scanBeams x)).settled = 0 ∧ (s.lane l).record = some r) ∧
    (∃ (s : State) (l : Lane) (x : Scan) (r : ContainerRecord), s.Ready ∧ (s.lane l).state ≠ .closed ∧
      (s.lane l).scanSettles x = false ∧ x.dark = 0#8 ∧ (s.lane l).state = .admitting ∧ (s.lane l).record = some r ∧
      r.verdict = none ∧ r.destination = none ∧ ((s.lane l).curtain.phase = .passing ∧
      2 ≤ (runsOf ((s.lane l).curtain.debounce (scanBeams x)).settled).length ∨ (s.lane l).curtain.phase = .waiting ∧
      2 ≤ (runsOf ((s.lane l).curtain.debounce (scanBeams x)).settled).length ∨ (s.lane l).curtain.phase = .stopping ∧
      ((s.lane l).curtain.debounce (scanBeams x)).settled ≠ 0)) ∧
    (∃ (s : State) (l : Lane) (x : Scan), s.Ready ∧ (s.lane l).state ≠ .closed ∧ (s.lane l).scanSettles x = false ∧
      x.dark ≠ 0#8 ∧ (s.lane l).curtain.stray < 2) ∧
    (∃ (s : State) (l : Lane) (x : Scan) (r : ContainerRecord), s.Ready ∧ (s.lane l).scanSettles x = false ∧ x.dark ≠ 0#8 ∧
      ((s.lane l).curtain.stray = 2 ∨ (s.lane l).curtain.stray = 3) ∧ ((s.lane l).state = .admitting ∨ (s.lane l).state =
      .weigh ∨ (s.lane l).state = .query ∨ (s.lane l).state = .hold ∨ (s.lane l).state = .returning) ∧ (s.lane l).record =
      some r ∧ l ∉ s.requests) :=
  ⟨⟨partBase, 0, ready_partBase, by decide +kernel⟩,
   ⟨partLostReply, 0,
     { lit0 := 0xfe#8, lit1 := 0xff#8, lit2 := 0xff#8, lit3 := 0x7f#8, dark := 0x00#8, mouth := true, button := true },
     ready_partLostReply, by decide +kernel⟩,
   ⟨partAdmitClear, 0,
     { lit0 := 0xfa#8, lit1 := 0xff#8, lit2 := 0xff#8, lit3 := 0xff#8, dark := 0x00#8, mouth := false, button := false }, 0, 2,
     ready_partAdmitClear, by decide +kernel⟩,
   ⟨partAdmitPass, 0,
     { lit0 := 0x00#8, lit1 := 0xff#8, lit2 := 0xff#8, lit3 := 0xff#8, dark := 0x00#8, mouth := true, button := false }, 0, 7,
     ready_partAdmitPass, by decide +kernel⟩,
   ⟨partAdmitPass, 0,
     { lit0 := 0xff#8, lit1 := 0xff#8, lit2 := 0xff#8, lit3 := 0xff#8, dark := 0x00#8, mouth := false, button := false },
     ((partAdmitPass.lane 0).record.getD default), ready_partAdmitPass, by decide +kernel⟩,
   ⟨partAdmitClear, 0,
     { lit0 := 0xf6#8, lit1 := 0xff#8, lit2 := 0xff#8, lit3 := 0xff#8, dark := 0x00#8, mouth := true, button := false },
     ((partAdmitClear.lane 0).record.getD default), ready_partAdmitClear, by decide +kernel⟩,
   ⟨partLostReply, 0,
     { lit0 := 0xfa#8, lit1 := 0xff#8, lit2 := 0xff#8, lit3 := 0xff#8, dark := 0x02#8, mouth := false, button := false },
     ready_partLostReply, by decide +kernel⟩,
   ⟨partAdmitStop9, 0,
     { lit0 := 0xf8#8, lit1 := 0xff#8, lit2 := 0xff#8, lit3 := 0xff#8, dark := 0x02#8, mouth := false, button := false },
     ((partAdmitStop9.lane 0).record.getD default), ready_partAdmitStop9, by decide +kernel⟩⟩

theorem test_witness_MouthBeamAdmitsWakesAndEndsReturn :
    (∃ (s : State) (l : Lane) (v : Bool), s.Ready ∧ ((s.lane l).state = .closed ∨ (s.lane l).mouth.settled = v)) ∧
    (∃ (s : State) (l : Lane), s.Ready ∧ (s.lane l).state = .ready ∧ (s.lane l).record = none ∧ (s.lane l).mouth.settled =
      false ∧ (s.lane l).holds = ⟨false, false, false, false⟩ ∧ (s.lane l).calRunning = false ∧ (s.lane l).closePending = false) ∧
    (∃ (s : State) (l : Lane), s.Ready ∧ (s.lane l).state = .ready ∧ (s.lane l).mouth.settled = false ∧
      ((s.lane l).holds ≠ ⟨false, false, false, false⟩ ∨ (s.lane l).calRunning = true)) ∧
    (∃ (s : State) (l : Lane), s.Ready ∧ ((s.lane l).state = .standby ∨ (s.lane l).state = .dormant) ∧ (s.lane l).record =
      none ∧ (s.lane l).mouth.settled = false ∧ (s.lane l).holds = ⟨false, false, false, false⟩ ∧ (s.lane l).calRunning =
      false ∧ (s.lane l).closePending = false ∧ (s.lane l).weigher.run = .none) ∧
    (∃ (s : State) (l : Lane), s.Ready ∧ ((s.lane l).state = .standby ∨ (s.lane l).state = .dormant) ∧
      (s.lane l).mouth.settled = false ∧ (s.lane l).holds ≠ ⟨false, false, false, false⟩ ∧ (s.lane l).weigher.run = .none) ∧
    (∃ (s : State) (l : Lane), s.Ready ∧ (s.lane l).state = .returning ∧ (s.lane l).mouth.settled = false ∧
      (s.lane l).weigher.run = .none) ∧
    (∃ (s : State) (l : Lane) (r : ContainerRecord), s.Ready ∧ (s.lane l).state = .returning ∧ (s.lane l).mouth.settled =
      true ∧ (s.lane l).belt = .off ∧ (s.lane l).record = some r ∧ r.destination = none ∧ (s.lane l).closePending = false ∧
      ((s.lane l).holdsAccept = false)) ∧
    (∃ (s : State) (l : Lane), s.Ready ∧ ((s.lane l).state = .admitting ∨ (s.lane l).state = .weigh ∨ (s.lane l).state =
      .query ∨ (s.lane l).state = .hold ∨ (s.lane l).state = .handoff ∨ (s.lane l).state = .fault) ∧
      (s.lane l).weigher.run ≠ .autoZero ∧ (s.lane l).mouth.settled = false) ∧
    (∃ (s : State) (l : Lane), s.Ready ∧ ((s.lane l).state = .admitting ∨ (s.lane l).state = .weigh ∨ (s.lane l).state =
      .query ∨ (s.lane l).state = .hold ∨ (s.lane l).state = .handoff ∨ (s.lane l).state = .fault) ∧ (s.lane l).mouth.settled =
      true) ∧
    (∃ (s : State) (l : Lane), s.Ready ∧ ((s.lane l).state = .ready ∨ (s.lane l).state = .standby ∨ (s.lane l).state =
      .dormant ∨ (s.lane l).state = .returning ∧ (s.lane l).belt ≠ .off) ∧ (s.lane l).mouth.settled = true) ∧
    (∃ (s : State) (l : Lane) (r : ContainerRecord), s.Ready ∧ (s.lane l).state = .returning ∧ (s.lane l).mouth.settled =
      true ∧ (s.lane l).belt = .off ∧ (s.lane l).record = some r ∧ r.destination = none ∧ (s.lane l).closePending = true ∧
      ((s.lane l).holdsAccept = false)) :=
  ⟨⟨partBase, 0, false, ready_partBase, by decide +kernel⟩,
   ⟨partReady, 0, ready_partReady, by decide +kernel⟩,
   ⟨partLostReply, 0, ready_partLostReply, by decide +kernel⟩,
   ⟨partStandby, 0, ready_partStandby, by decide +kernel⟩,
   ⟨partStandbyLost, 0, ready_partStandbyLost, by decide +kernel⟩,
   ⟨partReturning, 0, ready_partReturning, by decide +kernel⟩,
   ⟨partReturnStop, 0, ((partReturnStop.lane 0).record.getD default), ready_partReturnStop, by decide +kernel⟩,
   ⟨partClosePend, 0, ready_partClosePend, by decide +kernel⟩,
   ⟨partAdmitState, 0, ready_partAdmitState, by decide +kernel⟩,
   ⟨partZeroMouth, 0, ready_partZeroMouth, by decide +kernel⟩,
   ⟨partRetClose, 0, ((partRetClose.lane 0).record.getD default), ready_partRetClose, by decide +kernel⟩⟩

theorem test_witness_EncoderPulseCountsTheTravel :
    (∃ (s : State) (l : Lane), s.Ready ∧ ((s.lane l).belt = .off ∨ (s.lane l).belt = .forward ∧ ((s.lane l).curtain.phase =
      .none ∨ (s.lane l).curtain.phase = .waiting ∨ (s.lane l).curtain.phase = .ended))) ∧
    (∃ (s : State) (l : Lane), s.Ready ∧ (s.lane l).belt = .forward ∧ (s.lane l).curtain.phase = .passing ∧
      ((s.lane l).curtain.pulses + 1) * (s.lane l).config.beltPitch ≤ (s.lane l).config.maxLength) ∧
    (∃ (s : State) (l : Lane) (r : ContainerRecord), s.Ready ∧ (s.lane l).belt = .forward ∧ (s.lane l).state = .admitting ∧
      (s.lane l).curtain.phase = .passing ∧
      (s.lane l).config.maxLength < ((s.lane l).curtain.pulses + 1) * (s.lane l).config.beltPitch ∧ (s.lane l).record =
      some r ∧ r.verdict = none ∧ r.destination = none) ∧
    (∃ (s : State) (l : Lane), s.Ready ∧ (s.lane l).belt = .forward ∧ (s.lane l).curtain.phase = .stopping ∧
      (s.lane l).curtain.stops + 1 < (s.lane l).config.stopDistance) ∧
    (∃ (s : State) (l : Lane) (r : ContainerRecord), s.Ready ∧ (s.lane l).belt = .forward ∧ (s.lane l).state = .admitting ∧
      (s.lane l).curtain.phase = .stopping ∧ (s.lane l).config.stopDistance ≤ (s.lane l).curtain.stops + 1 ∧
      (s.lane l).record = some r) ∧
    (∃ (s : State) (l : Lane), s.Ready ∧ (s.lane l).belt = .reverse ∧
      (s.lane l).returnTravel + 1 ≤ (s.lane l).config.returnTravel) ∧
    (∃ (s : State) (l : Lane) (r : ContainerRecord), s.Ready ∧ (s.lane l).state = .returning ∧ (s.lane l).belt = .reverse ∧
      (s.lane l).config.returnTravel < (s.lane l).returnTravel + 1 ∧ (s.lane l).record = some r) :=
  ⟨⟨partBase, 0, ready_partBase, by decide +kernel⟩,
   ⟨partAdmitPass, 0, ready_partAdmitPass, by decide +kernel⟩,
   ⟨partAdmitPass2, 0, ((partAdmitPass2.lane 0).record.getD default), ready_partAdmitPass2, by decide +kernel⟩,
   ⟨partAdmitStop, 0, ready_partAdmitStop, by decide +kernel⟩,
   ⟨partAdmitStop9, 0, ((partAdmitStop9.lane 0).record.getD default), ready_partAdmitStop9, by decide +kernel⟩,
   ⟨partReturning, 0, ready_partReturning, by decide +kernel⟩,
   ⟨partReturnLost, 0, ((partReturnLost.lane 0).record.getD default), ready_partReturnLost, by decide +kernel⟩⟩

theorem test_witness_LaneTimersAct :
    (∃ (s : State) (l : Lane), s.Ready ∧ (¬ ((s.lane l).state = .admitting ∧ (s.lane l).curtain.phase = .waiting))) ∧
    (∃ (s : State) (l : Lane) (r : ContainerRecord), s.Ready ∧ (s.lane l).state = .admitting ∧ (s.lane l).curtain.phase =
      .waiting ∧ (s.lane l).mouth.settled = false ∧ (s.lane l).record = some r ∧ r.verdict = none ∧ r.destination = none ∧
      (s.lane l).closePending = false) ∧
    (∃ (s : State) (l : Lane) (r : ContainerRecord), s.Ready ∧ (s.lane l).state = .admitting ∧ (s.lane l).curtain.phase =
      .waiting ∧ (s.lane l).mouth.settled = true ∧ (s.lane l).record = some r) ∧
    (∃ (s : State) (l : Lane), s.Ready ∧ (s.lane l).belt = .off) ∧
    (∃ (s : State) (l : Lane) (r : ContainerRecord), s.Ready ∧ ((s.lane l).state = .admitting ∨ (s.lane l).state =
      .returning) ∧ (s.lane l).belt ≠ .off ∧ (s.lane l).record = some r) ∧
    (∃ (s : State) (l : Lane) (r : ContainerRecord) (n : Nat), s.Ready ∧ (s.lane l).state = .handoff ∧ (s.lane l).belt ≠ .off ∧
      (s.lane l).record = some r ∧ s.pocket = .granted l n ∧ l ∉ s.requests) ∧
    (∃ (s : State) (l : Lane), s.Ready ∧ (s.lane l).config.autoZeroInterval ≠ 0 ∧ (s.lane l).state = .ready ∧
      (s.lane l).calRunning = false ∧ (s.lane l).weigher.run = .none ∧ (s.lane l).mouth.settled = false) ∧
    (∃ (s : State) (l : Lane), s.Ready ∧ ((s.lane l).config.autoZeroInterval = 0 ∨ (s.lane l).state ≠ .ready ∨
      (s.lane l).calRunning = true ∨ (s.lane l).weigher.run ≠ .none ∨ (s.lane l).mouth.settled = true)) ∧
    (∃ (s : State) (l : Lane) (r : ContainerRecord) (seq n : Nat) (code : Code), s.Ready ∧ (s.lane l).query =
      .opened seq code n ∧ (s.lane l).state = .query ∧ (s.lane l).record = some r ∧ r.verdict = none ∧ r.destination = none) ∧
    (∃ (s : State) (l : Lane), s.Ready ∧ (s.lane l).queryTimer = none) :=
  ⟨⟨partBase, 0, ready_partBase, by decide +kernel⟩,
   ⟨partAdmitClear, 0, ((partAdmitClear.lane 0).record.getD default), ready_partAdmitClear, by decide +kernel⟩,
   ⟨partAdmitState, 0, ((partAdmitState.lane 0).record.getD default), ready_partAdmitState, by decide +kernel⟩,
   ⟨partBase, 0, ready_partBase, by decide +kernel⟩,
   ⟨partAdmitState, 0, ((partAdmitState.lane 0).record.getD default), ready_partAdmitState, by decide +kernel⟩,
   ⟨partHandoff, 0, ((partHandoff.lane 0).record.getD default), 1500, ready_partHandoff, by decide +kernel⟩,
   ⟨partLostReply, 0, ready_partLostReply, by decide +kernel⟩,
   ⟨partBase, 0, ready_partBase, by decide +kernel⟩,
   ⟨partQuery, 0, ((partQuery.lane 0).record.getD default), 7, 2000, { length := 13, value := 5 }, ready_partQuery,
     by decide +kernel⟩,
   ⟨partBase, 0, ready_partBase, by decide +kernel⟩⟩

theorem test_witness_LanesLowerAdmitCloseAndFaultAtTheirEvents :
    (∃ (s : State) (l : Lane), s.Ready ∧ ((s.lane l).state ≠ .ready ∨ (s.lane l).calRunning = true)) ∧
    (∃ (s : State) (l : Lane), s.Ready ∧ (s.lane l).state = .ready ∧ (s.lane l).calRunning = false) ∧
    (∃ (s : State) (l : Lane), s.Ready ∧ ((s.lane l).state ≠ .standby ∨ (s.lane l).session.state ≠ .none ∨
      (s.lane l).config.dormantTime = 0)) ∧
    (∃ (s : State) (l : Lane), s.Ready ∧ (s.lane l).state = .standby ∧ (s.lane l).session.state = .none ∧
      (s.lane l).config.dormantTime ≠ 0) ∧
    (∃ (s : State) (l : Lane), s.resetAsserted = false ∧ s.link.intake = [] ∧ (s.lane l).state = .ready ∧
      (s.lane l).mouth.settled = true ∧ (s.lane l).holds = ⟨false, false, false, false⟩ ∧ (s.lane l).calRunning = false ∧
      (s.lane l).closePending = false ∧ l ∉ s.requests) ∧
    (∃ (s : State) (l : Lane), s.resetAsserted = false ∧ s.link.intake = [] ∧ (s.lane l).state ≠ .closed ∧
      (s.lane l).closePending = true ∧ (s.lane l).record = none ∧ (s.lane l).session.state = .none ∧ (s.lane l).calRunning =
      false ∧ l ∉ s.requests) ∧
    (∃ (s : State), s.Ready) ∧
    (∃ (s : State), s.Ready) ∧
    (∃ (s : State) (l : Lane) (x : BitVec 16), s.Ready ∧ (s.lane l).converterOn = true ∧ (s.lane l).weigher.phase = .window ∧
      (s.lane l).weigher.samples.length = 15 ∧ (s.lane l).state = .ready ∧ (s.lane l).calRunning = true ∧
      (s.lane l).mouth.settled = true ∧ (s.lane l).holds = ⟨false, false, false, false⟩ ∧ (s.lane l).closePending = false ∧
      (s.lane l).record = none ∧ (s.lane l).weigher.run = .zero ∧ ((s.lane l).weigher.samples ++ [x.toInt]).any atEnd = false ∧
      spreadOf ((s.lane l).weigher.samples ++
      [x.toInt]) ≤ stabilityLimit (s.lane l).config.stabilityLimit (s.lane l).weigher.gain) ∧
    (∃ (s : State) (l : Lane) (x : BitVec 16) (m : Nat), s.Ready ∧ (s.lane l).converterOn = true ∧ (s.lane l).weigher.phase =
      .window ∧ (s.lane l).weigher.samples.length = 15 ∧ (s.lane l).state = .ready ∧ (s.lane l).calRunning = true ∧
      (s.lane l).mouth.settled = true ∧ (s.lane l).holds = ⟨false, false, false, false⟩ ∧ (s.lane l).closePending = false ∧
      (s.lane l).record = none ∧ (s.lane l).weigher.run = .span ∧ (s.lane l).weigher.refMass = some m ∧
      ((s.lane l).weigher.samples ++ [x.toInt]).any atEnd = false ∧ spreadOf ((s.lane l).weigher.samples ++
      [x.toInt]) ≤ stabilityLimit (s.lane l).config.stabilityLimit (s.lane l).weigher.gain ∧
      0 < (((s.lane l).weigher.samples ++ [x.toInt]).sum * (16 / (s.lane l).weigher.gain.factor : Nat)) - (s.lane l).zero ∧
      1 ≤ spanOf m ((((s.lane l).weigher.samples ++
      [x.toInt]).sum * (16 / (s.lane l).weigher.gain.factor : Nat)) - (s.lane l).zero).toNat ∧
      spanOf m ((((s.lane l).weigher.samples ++
      [x.toInt]).sum * (16 / (s.lane l).weigher.gain.factor : Nat)) - (s.lane l).zero).toNat ≤ 65535) ∧
    (∃ (s : State) (l : Lane) (x : BitVec 16), s.Ready ∧ (s.lane l).converterOn = true ∧ (s.lane l).weigher.phase = .window ∧
      (s.lane l).weigher.samples.length = 15 ∧ (s.lane l).state = .ready ∧ (s.lane l).calRunning = true ∧
      (s.lane l).mouth.settled = true ∧ (s.lane l).holds = ⟨false, false, false, false⟩ ∧ (s.lane l).closePending = false ∧
      (s.lane l).record = none ∧ ((s.lane l).weigher.run = .zero ∨ (s.lane l).weigher.run = .span) ∧
      ((s.lane l).weigher.samples ++ [x.toInt]).any atEnd = false ∧
      (stabilityLimit (s.lane l).config.stabilityLimit (s.lane l).weigher.gain : Int) < spreadOf ((s.lane l).weigher.samples ++
      [x.toInt]) ∧ (s.lane l).config.attempts ≤ (s.lane l).weigher.attempts + 1) ∧
    (∃ (s : State) (l : Lane) (x : BitVec 16), s.Ready ∧ (s.lane l).converterOn = true ∧ (s.lane l).weigher.phase = .window ∧
      (s.lane l).weigher.samples.length = 15 ∧ (s.lane l).state = .ready ∧ (s.lane l).calRunning = true ∧
      (s.lane l).closePending = true ∧ (s.lane l).record = none ∧ (s.lane l).session.state = .none ∧ (s.lane l).weigher.run =
      .zero ∧ ((s.lane l).weigher.samples ++ [x.toInt]).any atEnd = false ∧ spreadOf ((s.lane l).weigher.samples ++
      [x.toInt]) ≤ stabilityLimit (s.lane l).config.stabilityLimit (s.lane l).weigher.gain) ∧
    (∃ (s : State) (l : Lane) (x : BitVec 16) (m : Nat), s.Ready ∧ (s.lane l).converterOn = true ∧ (s.lane l).weigher.phase =
      .window ∧ (s.lane l).weigher.samples.length = 15 ∧ (s.lane l).state = .ready ∧ (s.lane l).calRunning = true ∧
      (s.lane l).closePending = true ∧ (s.lane l).record = none ∧ (s.lane l).session.state = .none ∧ (s.lane l).weigher.run =
      .span ∧ (s.lane l).weigher.refMass = some m ∧ ((s.lane l).weigher.samples ++ [x.toInt]).any atEnd = false ∧
      spreadOf ((s.lane l).weigher.samples ++
      [x.toInt]) ≤ stabilityLimit (s.lane l).config.stabilityLimit (s.lane l).weigher.gain ∧
      0 < (((s.lane l).weigher.samples ++ [x.toInt]).sum * (16 / (s.lane l).weigher.gain.factor : Nat)) - (s.lane l).zero ∧
      1 ≤ spanOf m ((((s.lane l).weigher.samples ++
      [x.toInt]).sum * (16 / (s.lane l).weigher.gain.factor : Nat)) - (s.lane l).zero).toNat ∧
      spanOf m ((((s.lane l).weigher.samples ++
      [x.toInt]).sum * (16 / (s.lane l).weigher.gain.factor : Nat)) - (s.lane l).zero).toNat ≤ 65535) ∧
    (∃ (s : State) (l : Lane) (x : BitVec 16), s.Ready ∧ (s.lane l).converterOn = true ∧ (s.lane l).weigher.phase = .window ∧
      (s.lane l).weigher.samples.length = 15 ∧ (s.lane l).state = .ready ∧ (s.lane l).calRunning = true ∧
      (s.lane l).closePending = true ∧ (s.lane l).record = none ∧ (s.lane l).session.state = .none ∧ ((s.lane l).weigher.run =
      .zero ∨ (s.lane l).weigher.run = .span) ∧ ((s.lane l).weigher.samples ++ [x.toInt]).any atEnd = false ∧
      (stabilityLimit (s.lane l).config.stabilityLimit (s.lane l).weigher.gain : Int) < spreadOf ((s.lane l).weigher.samples ++
      [x.toInt]) ∧ (s.lane l).config.attempts ≤ (s.lane l).weigher.attempts + 1) ∧
    (∃ (s : State) (l : Lane) (x : Scan), s.Ready ∧ (s.lane l).state ≠ .closed ∧ x.dark = 0#8 ∧ ((s.lane l).curtain.phase =
      .none ∨ (s.lane l).curtain.phase = .ended) ∧ (s.lane l).mouth.pending = true ∧ x.mouth ≠ (s.lane l).mouth.settled ∧
      x.button = (s.lane l).button.settled ∧ (s.lane l).button.pending = false ∧
      ((s.lane l).curtain.debounce (scanBeams x)).settled = 0) ∧
    (∃ (s : State) (l : Lane) (x : Scan), s.Ready ∧ (s.lane l).scanSettles x = false ∧ x.dark ≠ 0#8 ∧
      ((s.lane l).curtain.stray = 2 ∨ (s.lane l).curtain.stray = 3) ∧ ((s.lane l).state = .ready ∨ (s.lane l).state =
      .standby ∨ (s.lane l).state = .dormant) ∧ (s.lane l).closePending = false) ∧
    (∃ (s : State) (l : Lane) (x : Scan) (r : ContainerRecord), s.Ready ∧ (s.lane l).scanSettles x = false ∧ x.dark ≠ 0#8 ∧
      ((s.lane l).curtain.stray = 2 ∨ (s.lane l).curtain.stray = 3) ∧ (s.lane l).state = .hold ∧ (s.lane l).record = some r) ∧
    (∃ (s : State) (l : Lane) (x : Scan) (r : ContainerRecord) (n : Nat), s.Ready ∧ (s.lane l).scanSettles x = false ∧
      x.dark ≠ 0#8 ∧ ((s.lane l).curtain.stray = 2 ∨ (s.lane l).curtain.stray = 3) ∧ (s.lane l).state = .handoff ∧
      (s.lane l).record = some r ∧ s.pocket = .granted l n ∧ l ∉ s.requests) :=
  ⟨⟨partBase, 0, ready_partBase, by decide +kernel⟩,
   ⟨partLostReply, 0, ready_partLostReply, by decide +kernel⟩,
   ⟨partBase, 0, ready_partBase, by decide +kernel⟩,
   ⟨partStandby, 0, ready_partStandby, by decide +kernel⟩,
   ⟨partDueAdmit, 0, by decide +kernel⟩,
   ⟨partDueClose, 0, by decide +kernel⟩,
   ⟨partBase, ready_partBase⟩,
   ⟨partBase, ready_partBase⟩,
   ⟨partZeroMouth, 0, 0x0064#16, ready_partZeroMouth, by decide +kernel⟩,
   ⟨partSpanMouth, 0, 0x0064#16, 500, ready_partSpanMouth, by decide +kernel⟩,
   ⟨partZeroMouth, 0, 0x00c8#16, ready_partZeroMouth, by decide +kernel⟩,
   ⟨partZeroPend, 0, 0x0064#16, ready_partZeroPend, by decide +kernel⟩,
   ⟨partSpanPend, 0, 0x0064#16, 500, ready_partSpanPend, by decide +kernel⟩,
   ⟨partZeroPend, 0, 0x0000#16, ready_partZeroPend, by decide +kernel⟩,
   ⟨partMouthPend, 0,
     { lit0 := 0xff#8, lit1 := 0xff#8, lit2 := 0xff#8, lit3 := 0xff#8, dark := 0x00#8, mouth := true, button := false },
     ready_partMouthPend, by decide +kernel⟩,
   ⟨partStrayReady, 0,
     { lit0 := 0x00#8, lit1 := 0xff#8, lit2 := 0xff#8, lit3 := 0xff#8, dark := 0x01#8, mouth := false, button := false },
     ready_partStrayReady, by decide +kernel⟩,
   ⟨partStrayHold, 0,
     { lit0 := 0xfa#8, lit1 := 0xff#8, lit2 := 0xff#8, lit3 := 0xff#8, dark := 0x01#8, mouth := false, button := false },
     ((partStrayHold.lane 0).record.getD default), ready_partStrayHold, by decide +kernel⟩,
   ⟨partStrayHandoff, 0,
     { lit0 := 0x00#8, lit1 := 0xff#8, lit2 := 0xff#8, lit3 := 0xff#8, dark := 0x01#8, mouth := false, button := false },
     ((partStrayHandoff.lane 0).record.getD default), 1500, ready_partStrayHandoff, by decide +kernel⟩⟩

theorem test_witness_ReaderCharacterBuildsAndPostsALine :
    (∃ (s : State) (l : Lane) (c : Byte) (e : Bool), s.Ready ∧ (s.lane l).reader.skipping = true ∧ (c ≠ 0x0D#8 ∨ e = true)) ∧
    (∃ (s : State) (l : Lane), s.Ready ∧ (s.lane l).reader.skipping = true) ∧
    (∃ (s : State) (l : Lane), s.Ready ∧ (s.lane l).reader.skipping = false) ∧
    (∃ (s : State) (l : Lane), s.Ready ∧ (s.lane l).reader.skipping = false) ∧
    (∃ (s : State) (l : Lane) (c : Byte), s.Ready ∧ (s.lane l).reader.skipping = false ∧ c ≠ 0x0D#8 ∧ c ≠ 0x0A#8 ∧
      (s.lane l).reader.buffer.length < 16) ∧
    (∃ (s : State) (l : Lane) (c : Byte), s.Ready ∧ (s.lane l).reader.skipping = false ∧ c ≠ 0x0D#8 ∧ c ≠ 0x0A#8 ∧
      16 ≤ (s.lane l).reader.buffer.length) ∧
    (∃ (s : State) (l : Lane), s.Ready ∧ (s.lane l).reader.skipping = false ∧ ((s.lane l).zoneOpen = false ∨
      judgeLine (s.lane l).reader.badLine (s.lane l).reader.buffer = .malformed)) ∧
    (∃ (s : State) (l : Lane) (r : ContainerRecord) (k : Code), s.Ready ∧ (s.lane l).reader.skipping = false ∧
      (s.lane l).record = some r ∧ r.verdict = none ∧ judgeLine (s.lane l).reader.badLine (s.lane l).reader.buffer = .good k) ∧
    (∃ (s : State) (l : Lane) (r : ContainerRecord), s.Ready ∧ (s.lane l).reader.skipping = false ∧ (s.lane l).record =
      some r ∧ r.verdict = none ∧ judgeLine (s.lane l).reader.badLine (s.lane l).reader.buffer = .badRead) :=
  ⟨⟨partSkipping, 0, 0x30#8, true, ready_partSkipping, by decide +kernel⟩,
   ⟨partSkipping, 0, ready_partSkipping, by decide +kernel⟩,
   ⟨partBase, 0, ready_partBase, by decide +kernel⟩,
   ⟨partBase, 0, ready_partBase, by decide +kernel⟩,
   ⟨partBase, 0, 0x41#8, ready_partBase, by decide +kernel⟩,
   ⟨partLine16, 0, 0x31#8, ready_partLine16, by decide +kernel⟩,
   ⟨partBase, 0, ready_partBase, by decide +kernel⟩,
   ⟨partLineGood, 0, ((partLineGood.lane 0).record.getD default), { length := 8, value := 40063812 }, ready_partLineGood,
     by decide +kernel⟩,
   ⟨partLineBad, 0, ((partLineBad.lane 0).record.getD default), ready_partLineBad, by decide +kernel⟩⟩

theorem test_witness_SamplesAreDiscardedAndGathered :
    (∃ (s : State) (l : Lane), s.Ready ∧ ((s.lane l).converterOn = false ∨ (s.lane l).weigher.phase = .idle)) ∧
    (∃ (s : State) (l : Lane), s.Ready ∧ (s.lane l).converterOn = true ∧ (s.lane l).weigher.phase = .discard ∧
      1 < (s.lane l).weigher.discardRemaining) ∧
    (∃ (s : State) (l : Lane), s.Ready ∧ (s.lane l).converterOn = true ∧ (s.lane l).weigher.phase = .discard ∧
      (s.lane l).weigher.discardRemaining = 1) ∧
    (∃ (s : State) (l : Lane), s.Ready ∧ (s.lane l).converterOn = true ∧ (s.lane l).weigher.phase = .window ∧
      (s.lane l).weigher.samples.length < 15) ∧
    (∃ (s : State) (l : Lane) (x : BitVec 16), s.Ready ∧ (s.lane l).converterOn = true ∧ (s.lane l).weigher.phase = .window ∧
      (s.lane l).weigher.samples.length = 15 ∧ (s.lane l).weigher.run ≠ .none ∧ ((s.lane l).weigher.samples ++
      [x.toInt]).any atEnd = false ∧
      (stabilityLimit (s.lane l).config.stabilityLimit (s.lane l).weigher.gain : Int) < spreadOf ((s.lane l).weigher.samples ++
      [x.toInt]) ∧ (s.lane l).weigher.attempts + 1 < (s.lane l).config.attempts) ∧
    (∃ (s : State) (l : Lane) (x : BitVec 16), s.Ready ∧ (s.lane l).converterOn = true ∧ (s.lane l).weigher.phase = .window ∧
      (s.lane l).weigher.samples.length = 15 ∧ ((s.lane l).weigher.run = .container ∨ (s.lane l).weigher.run = .span) ∧
      (s.lane l).weigher.gain ≠ .g1 ∧ ((s.lane l).weigher.samples ++ [x.toInt]).any atEnd = true) ∧
    (∃ (s : State) (l : Lane) (x : BitVec 16), s.Ready ∧ (s.lane l).converterOn = true ∧ (s.lane l).weigher.phase = .window ∧
      (s.lane l).weigher.samples.length = 15 ∧ (s.lane l).weigher.run = .autoZero ∧ (((s.lane l).weigher.samples ++
      [x.toInt]).any atEnd = true ∨
      (stabilityLimit (s.lane l).config.stabilityLimit (s.lane l).weigher.gain : Int) < spreadOf ((s.lane l).weigher.samples ++
      [x.toInt]) ∧ (s.lane l).config.attempts ≤ (s.lane l).weigher.attempts + 1)) :=
  ⟨⟨partBase, 0, ready_partBase, by decide +kernel⟩,
   ⟨partWeighDisc, 0, ready_partWeighDisc, by decide +kernel⟩,
   ⟨partReadyAZ, 0, ready_partReadyAZ, by decide +kernel⟩,
   ⟨partWeighWin, 0, ready_partWeighWin, by decide +kernel⟩,
   ⟨partWeighFull, 0, 0x01f4#16, ready_partWeighFull, by decide +kernel⟩,
   ⟨partWeighFull, 0, 0x8000#16, ready_partWeighFull, by decide +kernel⟩,
   ⟨partAzFull, 0, 0x7fff#16, ready_partAzFull, by decide +kernel⟩⟩

theorem test_witness_CalibrationRunsWriteZeroAndSpan :
    (∃ (s : State) (l : Lane) (x : BitVec 16), s.Ready ∧ (s.lane l).converterOn = true ∧ (s.lane l).weigher.phase = .window ∧
      (s.lane l).weigher.samples.length = 15 ∧ (s.lane l).mouth.settled = false ∧ (s.lane l).closePending = false ∧
      (s.lane l).state = .ready ∧ (s.lane l).weigher.run = .zero ∧ ((s.lane l).weigher.samples ++ [x.toInt]).any atEnd =
      false ∧ spreadOf ((s.lane l).weigher.samples ++
      [x.toInt]) ≤ stabilityLimit (s.lane l).config.stabilityLimit (s.lane l).weigher.gain) ∧
    (∃ (s : State) (l : Lane) (x : BitVec 16) (m : Nat), s.Ready ∧ (s.lane l).converterOn = true ∧ (s.lane l).weigher.phase =
      .window ∧ (s.lane l).weigher.samples.length = 15 ∧ (s.lane l).mouth.settled = false ∧ (s.lane l).closePending = false ∧
      (s.lane l).state = .ready ∧ (s.lane l).weigher.run = .span ∧ (s.lane l).weigher.refMass = some m ∧
      ((s.lane l).weigher.samples ++ [x.toInt]).any atEnd = false ∧ spreadOf ((s.lane l).weigher.samples ++
      [x.toInt]) ≤ stabilityLimit (s.lane l).config.stabilityLimit (s.lane l).weigher.gain ∧
      0 < (((s.lane l).weigher.samples ++ [x.toInt]).sum * (16 / (s.lane l).weigher.gain.factor : Nat)) - (s.lane l).zero ∧
      1 ≤ spanOf m ((((s.lane l).weigher.samples ++
      [x.toInt]).sum * (16 / (s.lane l).weigher.gain.factor : Nat)) - (s.lane l).zero).toNat ∧
      spanOf m ((((s.lane l).weigher.samples ++
      [x.toInt]).sum * (16 / (s.lane l).weigher.gain.factor : Nat)) - (s.lane l).zero).toNat ≤ 65535) ∧
    (∃ (s : State) (l : Lane) (x : BitVec 16) (m : Nat), s.Ready ∧ (s.lane l).converterOn = true ∧ (s.lane l).weigher.phase =
      .window ∧ (s.lane l).weigher.samples.length = 15 ∧ (s.lane l).mouth.settled = false ∧ (s.lane l).closePending = false ∧
      (s.lane l).state = .ready ∧ (s.lane l).weigher.run = .span ∧ (s.lane l).weigher.refMass = some m ∧
      ((s.lane l).weigher.samples ++ [x.toInt]).any atEnd = false ∧ spreadOf ((s.lane l).weigher.samples ++
      [x.toInt]) ≤ stabilityLimit (s.lane l).config.stabilityLimit (s.lane l).weigher.gain ∧ ((((s.lane l).weigher.samples ++
      [x.toInt]).sum * (16 / (s.lane l).weigher.gain.factor : Nat)) - (s.lane l).zero ≤ 0 ∨
      spanOf m ((((s.lane l).weigher.samples ++
      [x.toInt]).sum * (16 / (s.lane l).weigher.gain.factor : Nat)) - (s.lane l).zero).toNat = 0 ∨
      65535 < spanOf m ((((s.lane l).weigher.samples ++
      [x.toInt]).sum * (16 / (s.lane l).weigher.gain.factor : Nat)) - (s.lane l).zero).toNat)) ∧
    (∃ (s : State) (l : Lane) (x : BitVec 16), s.Ready ∧ (s.lane l).converterOn = true ∧ (s.lane l).weigher.phase = .window ∧
      (s.lane l).weigher.samples.length = 15 ∧ (s.lane l).mouth.settled = false ∧ (s.lane l).closePending = false ∧
      (s.lane l).state = .ready ∧ (s.lane l).weigher.run = .autoZero ∧ (s.lane l).calRunning = false ∧
      ((s.lane l).weigher.samples ++ [x.toInt]).any atEnd = false ∧ spreadOf ((s.lane l).weigher.samples ++
      [x.toInt]) ≤ stabilityLimit (s.lane l).config.stabilityLimit (s.lane l).weigher.gain ∧
      driftOf ((((s.lane l).weigher.samples ++
      [x.toInt]).sum * (16 / (s.lane l).weigher.gain.factor : Nat)) - (s.lane l).zero) (s.lane l).span ≤ (s.lane l).config.zeroBand) ∧
    (∃ (s : State) (l : Lane) (x : BitVec 16), s.Ready ∧ (s.lane l).converterOn = true ∧ (s.lane l).weigher.phase = .window ∧
      (s.lane l).weigher.samples.length = 15 ∧ (s.lane l).mouth.settled = false ∧ (s.lane l).closePending = false ∧
      (s.lane l).state = .ready ∧ (s.lane l).weigher.run = .autoZero ∧ (s.lane l).calRunning = false ∧
      ((s.lane l).weigher.samples ++ [x.toInt]).any atEnd = false ∧ spreadOf ((s.lane l).weigher.samples ++
      [x.toInt]) ≤ stabilityLimit (s.lane l).config.stabilityLimit (s.lane l).weigher.gain ∧
      (s.lane l).config.zeroBand < driftOf ((((s.lane l).weigher.samples ++
      [x.toInt]).sum * (16 / (s.lane l).weigher.gain.factor : Nat)) - (s.lane l).zero) (s.lane l).span) ∧
    (∃ (s : State) (l : Lane) (x : BitVec 16), s.Ready ∧ (s.lane l).converterOn = true ∧ (s.lane l).weigher.phase = .window ∧
      (s.lane l).weigher.samples.length = 15 ∧ (s.lane l).mouth.settled = false ∧ (s.lane l).closePending = false ∧
      (s.lane l).state = .ready ∧ ((s.lane l).weigher.run = .zero ∨ (s.lane l).weigher.run = .span ∧ (s.lane l).weigher.gain =
      .g1) ∧ ((s.lane l).weigher.samples ++ [x.toInt]).any atEnd = true) ∧
    (∃ (s : State) (l : Lane) (x : BitVec 16), s.Ready ∧ (s.lane l).converterOn = true ∧ (s.lane l).weigher.phase = .window ∧
      (s.lane l).weigher.samples.length = 15 ∧ (s.lane l).mouth.settled = false ∧ (s.lane l).closePending = false ∧
      (s.lane l).state = .ready ∧ ((s.lane l).weigher.run = .zero ∨ (s.lane l).weigher.run = .span) ∧
      ((s.lane l).weigher.samples ++ [x.toInt]).any atEnd = false ∧
      (stabilityLimit (s.lane l).config.stabilityLimit (s.lane l).weigher.gain : Int) < spreadOf ((s.lane l).weigher.samples ++
      [x.toInt]) ∧ (s.lane l).config.attempts ≤ (s.lane l).weigher.attempts + 1) :=
  ⟨⟨partZeroFull, 0, 0x0064#16, ready_partZeroFull, by decide +kernel⟩,
   ⟨partSpanFull, 0, 0x0064#16, 500, ready_partSpanFull, by decide +kernel⟩,
   ⟨partSpanBad, 0, 0x0064#16, 500, ready_partSpanBad, by decide +kernel⟩,
   ⟨partAzFull, 0, 0x0000#16, ready_partAzFull, by decide +kernel⟩,
   ⟨partAzFar, 0, 0x0000#16, ready_partAzFar, by decide +kernel⟩,
   ⟨partZeroFull, 0, 0x7fff#16, ready_partZeroFull, by decide +kernel⟩,
   ⟨partZeroFull, 0, 0x01f4#16, ready_partZeroFull, by decide +kernel⟩⟩

theorem test_witness_TheDecidingWindowJudgesTheContainer :
    (∃ (s : State) (l : Lane) (x : BitVec 16) (r : ContainerRecord) (reason : Reason), s.Ready ∧ (s.lane l).converterOn =
      true ∧ (s.lane l).weigher.phase = .window ∧ (s.lane l).weigher.samples.length = 15 ∧ (s.lane l).state = .weigh ∧
      (s.lane l).weigher.run = .container ∧ (s.lane l).record = some r ∧ r.verdict = none ∧ r.destination = none ∧
      ((s.lane l).weigher.samples ++ [x.toInt]).any atEnd = false ∧ spreadOf ((s.lane l).weigher.samples ++
      [x.toInt]) ≤ stabilityLimit (s.lane l).config.stabilityLimit (s.lane l).weigher.gain ∧ ({ r with
        weighing := some (.weight (weightOf ((((s.lane l).weigher.samples ++
          [x.toInt]).sum * (16 / (s.lane l).weigher.gain.factor : Nat)) - (s.lane l).zero) (s.lane l).span)),
        gain := some (s.lane l).weigher.gain } : ContainerRecord).goodCode = .error reason) ∧
    (∃ (s : State) (l : Lane) (x : BitVec 16) (r : ContainerRecord) (code : Code), s.Ready ∧ (s.lane l).converterOn = true ∧
      (s.lane l).weigher.phase = .window ∧ (s.lane l).weigher.samples.length = 15 ∧ (s.lane l).state = .weigh ∧
      (s.lane l).weigher.run = .container ∧ (s.lane l).record = some r ∧ r.verdict = none ∧ r.destination = none ∧
      ((s.lane l).weigher.samples ++ [x.toInt]).any atEnd = false ∧ spreadOf ((s.lane l).weigher.samples ++
      [x.toInt]) ≤ stabilityLimit (s.lane l).config.stabilityLimit (s.lane l).weigher.gain ∧ ({ r with
        weighing := some (.weight (weightOf ((((s.lane l).weigher.samples ++
          [x.toInt]).sum * (16 / (s.lane l).weigher.gain.factor : Nat)) - (s.lane l).zero) (s.lane l).span)),
        gain := some (s.lane l).weigher.gain } : ContainerRecord).goodCode = .ok code ∧ s.lookup code = .excluded) ∧
    (∃ (s : State) (l : Lane) (x : BitVec 16) (r : ContainerRecord) (code : Code), s.Ready ∧ (s.lane l).converterOn = true ∧
      (s.lane l).weigher.phase = .window ∧ (s.lane l).weigher.samples.length = 15 ∧ (s.lane l).state = .weigh ∧
      (s.lane l).weigher.run = .container ∧ (s.lane l).record = some r ∧ r.verdict = none ∧ r.destination = none ∧
      ((s.lane l).weigher.samples ++ [x.toInt]).any atEnd = false ∧ spreadOf ((s.lane l).weigher.samples ++
      [x.toInt]) ≤ stabilityLimit (s.lane l).config.stabilityLimit (s.lane l).weigher.gain ∧ ({ r with
        weighing := some (.weight (weightOf ((((s.lane l).weigher.samples ++
          [x.toInt]).sum * (16 / (s.lane l).weigher.gain.factor : Nat)) - (s.lane l).zero) (s.lane l).span)),
        gain := some (s.lane l).weigher.gain }
        : ContainerRecord).goodCode = .ok code ∧ s.lookup code = .unknown ∧ (s.lane l).config.queryEnabled = false) ∧
    (∃ (s : State) (l : Lane) (x : BitVec 16) (r : ContainerRecord) (code : Code), s.Ready ∧ (s.lane l).converterOn = true ∧
      (s.lane l).weigher.phase = .window ∧ (s.lane l).weigher.samples.length = 15 ∧ (s.lane l).state = .weigh ∧
      (s.lane l).weigher.run = .container ∧ (s.lane l).record = some r ∧ r.verdict = none ∧ r.destination = none ∧
      ((s.lane l).weigher.samples ++ [x.toInt]).any atEnd = false ∧ spreadOf ((s.lane l).weigher.samples ++
      [x.toInt]) ≤ stabilityLimit (s.lane l).config.stabilityLimit (s.lane l).weigher.gain ∧ ({ r with
        weighing := some (.weight (weightOf ((((s.lane l).weigher.samples ++
          [x.toInt]).sum * (16 / (s.lane l).weigher.gain.factor : Nat)) - (s.lane l).zero) (s.lane l).span)),
        gain := some (s.lane l).weigher.gain }
        : ContainerRecord).goodCode = .ok code ∧ s.lookup code = .unknown ∧ (s.lane l).config.queryEnabled = true) ∧
    (∃ (s : State) (l : Lane) (x : BitVec 16) (r : ContainerRecord) (code : Code) (c : ClassId) (reason : Reason), s.Ready ∧
      (s.lane l).converterOn = true ∧ (s.lane l).weigher.phase = .window ∧ (s.lane l).weigher.samples.length = 15 ∧
      (s.lane l).state = .weigh ∧ (s.lane l).weigher.run = .container ∧ (s.lane l).record = some r ∧ r.verdict = none ∧
      r.destination = none ∧ ((s.lane l).weigher.samples ++ [x.toInt]).any atEnd = false ∧
      spreadOf ((s.lane l).weigher.samples ++
      [x.toInt]) ≤ stabilityLimit (s.lane l).config.stabilityLimit (s.lane l).weigher.gain ∧ ({ r with
        weighing := some (.weight (weightOf ((((s.lane l).weigher.samples ++
          [x.toInt]).sum * (16 / (s.lane l).weigher.gain.factor : Nat)) - (s.lane l).zero) (s.lane l).span)),
        gain := some (s.lane l).weigher.gain }
        : ContainerRecord).goodCode = .ok code ∧ s.lookup code = .found c ∧ s.classReason l { r with
            weighing := some (.weight (weightOf ((((s.lane l).weigher.samples ++
              [x.toInt]).sum * (16 / (s.lane l).weigher.gain.factor : Nat)) - (s.lane l).zero) (s.lane l).span)),
            gain := some (s.lane l).weigher.gain } c = some reason) ∧
    (∃ (s : State) (l : Lane) (x : BitVec 16) (r : ContainerRecord) (code : Code) (c : ClassId), s.Ready ∧
      (s.lane l).converterOn = true ∧ (s.lane l).weigher.phase = .window ∧ (s.lane l).weigher.samples.length = 15 ∧
      (s.lane l).state = .weigh ∧ (s.lane l).weigher.run = .container ∧ (s.lane l).record = some r ∧ r.verdict = none ∧
      r.destination = none ∧ ((s.lane l).weigher.samples ++ [x.toInt]).any atEnd = false ∧
      spreadOf ((s.lane l).weigher.samples ++
      [x.toInt]) ≤ stabilityLimit (s.lane l).config.stabilityLimit (s.lane l).weigher.gain ∧ ({ r with
        weighing := some (.weight (weightOf ((((s.lane l).weigher.samples ++
          [x.toInt]).sum * (16 / (s.lane l).weigher.gain.factor : Nat)) - (s.lane l).zero) (s.lane l).span)),
        gain := some (s.lane l).weigher.gain }
        : ContainerRecord).goodCode = .ok code ∧ s.lookup code = .found c ∧ s.classReason l { r with
            weighing := some (.weight (weightOf ((((s.lane l).weigher.samples ++
              [x.toInt]).sum * (16 / (s.lane l).weigher.gain.factor : Nat)) - (s.lane l).zero) (s.lane l).span)),
            gain := some (s.lane l).weigher.gain } c = none ∧ s.chooseBin (s.classAt c).material (s.classAt c).preferred = none) ∧
    (∃ (s : State) (l : Lane) (x : BitVec 16) (r : ContainerRecord) (code : Code) (c : ClassId) (b : BinId), s.Ready ∧
      (s.lane l).converterOn = true ∧ (s.lane l).weigher.phase = .window ∧ (s.lane l).weigher.samples.length = 15 ∧
      (s.lane l).state = .weigh ∧ (s.lane l).weigher.run = .container ∧ (s.lane l).record = some r ∧ r.verdict = none ∧
      r.destination = none ∧ ((s.lane l).weigher.samples ++ [x.toInt]).any atEnd = false ∧
      spreadOf ((s.lane l).weigher.samples ++
      [x.toInt]) ≤ stabilityLimit (s.lane l).config.stabilityLimit (s.lane l).weigher.gain ∧ ({ r with
        weighing := some (.weight (weightOf ((((s.lane l).weigher.samples ++
          [x.toInt]).sum * (16 / (s.lane l).weigher.gain.factor : Nat)) - (s.lane l).zero) (s.lane l).span)),
        gain := some (s.lane l).weigher.gain }
        : ContainerRecord).goodCode = .ok code ∧ s.lookup code = .found c ∧ s.classReason l { r with
            weighing := some (.weight (weightOf ((((s.lane l).weigher.samples ++
              [x.toInt]).sum * (16 / (s.lane l).weigher.gain.factor : Nat)) - (s.lane l).zero) (s.lane l).span)),
            gain := some (s.lane l).weigher.gain }
            c = none ∧ s.chooseBin (s.classAt c).material (s.classAt c).preferred = some b) ∧
    (∃ (s : State) (l : Lane) (x : BitVec 16) (r : ContainerRecord), s.Ready ∧ (s.lane l).converterOn = true ∧
      (s.lane l).weigher.phase = .window ∧ (s.lane l).weigher.samples.length = 15 ∧ (s.lane l).state = .weigh ∧
      (s.lane l).weigher.run = .container ∧ (s.lane l).record = some r ∧ r.verdict = none ∧ r.destination = none ∧
      ((s.lane l).weigher.samples ++ [x.toInt]).any atEnd = false ∧
      (stabilityLimit (s.lane l).config.stabilityLimit (s.lane l).weigher.gain : Int) < spreadOf ((s.lane l).weigher.samples ++
      [x.toInt]) ∧ (s.lane l).config.attempts ≤ (s.lane l).weigher.attempts + 1) ∧
    (∃ (s : State) (l : Lane) (x : BitVec 16) (r : ContainerRecord), s.Ready ∧ (s.lane l).converterOn = true ∧
      (s.lane l).weigher.phase = .window ∧ (s.lane l).weigher.samples.length = 15 ∧ (s.lane l).state = .weigh ∧
      (s.lane l).weigher.run = .container ∧ (s.lane l).record = some r ∧ r.verdict = none ∧ r.destination = none ∧
      (s.lane l).weigher.gain = .g1 ∧ ((s.lane l).weigher.samples ++ [x.toInt]).any atEnd = true ∧
      ((s.lane l).weigher.samples ++ [x.toInt]).any (· == -32768) = false) ∧
    (∃ (s : State) (l : Lane) (x : BitVec 16) (r : ContainerRecord), s.Ready ∧ (s.lane l).converterOn = true ∧
      (s.lane l).weigher.phase = .window ∧ (s.lane l).weigher.samples.length = 15 ∧ (s.lane l).state = .weigh ∧
      (s.lane l).weigher.run = .container ∧ (s.lane l).record = some r ∧ r.verdict = none ∧ r.destination = none ∧
      (s.lane l).weigher.gain = .g1 ∧ ((s.lane l).weigher.samples ++ [x.toInt]).any atEnd = true ∧
      ((s.lane l).weigher.samples ++ [x.toInt]).any (· == -32768) = true) :=
  ⟨⟨partWeighFull1, 0, 0x0064#16, ((partWeighFull1.lane 0).record.getD default), .noCode, ready_partWeighFull1,
    by decide +kernel⟩,
   ⟨partWeighEx, 0, 0x0064#16, ((partWeighEx.lane 0).record.getD default), { length := 13, value := 9 }, ready_partWeighEx,
     by decide +kernel⟩,
   ⟨partWeighUnkOff, 0, 0x0064#16, ((partWeighUnkOff.lane 0).record.getD default), { length := 8, value := 5 },
     ready_partWeighUnkOff, by decide +kernel⟩,
   ⟨partWeighUnk, 0, 0x0064#16, ((partWeighUnk.lane 0).record.getD default), { length := 8, value := 5 }, ready_partWeighUnk,
     by decide +kernel⟩,
   ⟨partWeighLong, 0, 0x0064#16, ((partWeighLong.lane 0).record.getD default), { length := 13, value := 5 }, 1, .shape,
     ready_partWeighLong, by decide +kernel⟩,
   ⟨partWeighFull, 0, 0x0064#16, ((partWeighFull.lane 0).record.getD default), { length := 13, value := 5 }, 1,
     ready_partWeighFull, by decide +kernel⟩,
   ⟨partWeighBin, 0, 0x0064#16, ((partWeighBin.lane 0).record.getD default), { length := 13, value := 5 }, 1, 1,
     ready_partWeighBin, by decide +kernel⟩,
   ⟨partWeighFull1, 0, 0x01f4#16, ((partWeighFull1.lane 0).record.getD default), ready_partWeighFull1, by decide +kernel⟩,
   ⟨partWeighFull1, 0, 0x7fff#16, ((partWeighFull1.lane 0).record.getD default), ready_partWeighFull1, by decide +kernel⟩,
   ⟨partWeighFull1, 0, 0x8000#16, ((partWeighFull1.lane 0).record.getD default), ready_partWeighFull1, by decide +kernel⟩⟩

theorem test_witness_VerdictsAndTokensMakeTheirReports :
    (∃ (s : State) (l : Lane) (seq : Nat) (code : Code) (r : ContainerRecord) (c : ClassId) (b : BinId), s.TakesCommands ∧
      (s.lane l).query.subject = some (seq, code) ∧ seq ≠ 0 ∧ (s.lane l).state = .query ∧ (s.lane l).record = some r ∧
      r.verdict = none ∧ r.destination = none ∧ s.classReason l r c = none ∧
      s.chooseBin (s.classAt c).material (s.classAt c).preferred = some b) ∧
    (∃ (s : State) (l : Lane) (seq : Nat) (code : Code) (r : ContainerRecord), s.TakesCommands ∧ (s.lane l).query.subject =
      some (seq, code) ∧ seq ≠ 0 ∧ (s.lane l).state = .query ∧ (s.lane l).record = some r ∧ r.verdict = none ∧ r.destination =
      none) ∧
    (∃ (s : State) (l : Lane) (x : BitVec 16) (r : ContainerRecord) (code : Code) (c : ClassId) (b : BinId), s.Ready ∧
      (s.lane l).converterOn = true ∧ (s.lane l).weigher.phase = .window ∧ (s.lane l).weigher.samples.length = 15 ∧
      (s.lane l).state = .weigh ∧ (s.lane l).weigher.run = .container ∧ (s.lane l).record = some r ∧ r.verdict = none ∧
      r.destination = none ∧ ((s.lane l).weigher.samples ++ [x.toInt]).any atEnd = false ∧
      spreadOf ((s.lane l).weigher.samples ++
      [x.toInt]) ≤ stabilityLimit (s.lane l).config.stabilityLimit (s.lane l).weigher.gain ∧ ({ r with
        weighing := some (.weight (weightOf ((((s.lane l).weigher.samples ++
          [x.toInt]).sum * (16 / (s.lane l).weigher.gain.factor : Nat)) - (s.lane l).zero) (s.lane l).span)),
        gain := some (s.lane l).weigher.gain }
        : ContainerRecord).goodCode = .ok code ∧ s.lookup code = .found c ∧ s.classReason l { r with
            weighing := some (.weight (weightOf ((((s.lane l).weigher.samples ++
              [x.toInt]).sum * (16 / (s.lane l).weigher.gain.factor : Nat)) - (s.lane l).zero) (s.lane l).span)),
            gain := some (s.lane l).weigher.gain }
            c = none ∧ s.chooseBin (s.classAt c).material (s.classAt c).preferred = some b) ∧
    (∃ (s : State) (l : Lane) (r : ContainerRecord), s.TakesCommands ∧ (s.lane l).state = .query ∧ (s.lane l).record = some r) ∧
    (∃ (s : State) (l : Lane), s.TakesCommands ∧ (s.lane l).state = .query ∧ (s.lane l).mouth.settled = false ∧
      (s.lane l).curtain.settled = 0) ∧
    (∃ (s : State) (l : Lane) (x : Scan), s.Ready ∧ (s.lane l).scanSettles x = false ∧ x.dark ≠ 0#8 ∧
      ((s.lane l).curtain.stray = 2 ∨ (s.lane l).curtain.stray = 3) ∧ (s.lane l).state = .query) ∧
    (∃ (s : State) (l : Lane) (r : ContainerRecord), s.TakesCommands ∧ ((s.lane l).state = .fault ∨ (s.lane l).state = .query ∨
      (s.lane l).state = .hold) ∧ (s.lane l).record = some r ∧ Verdict.isReject r.verdict = false) ∧
    (∃ (s : State) (l : Lane) (r : ContainerRecord), s.TakesCommands ∧ (s.lane l).state = .fault ∧ (s.lane l).record = some r ∧
      Verdict.isReject r.verdict = true) ∧
    (∃ (s : State) (b : BinId) (k : Token), s.Ready ∧ s.Sound ∧ (s.bin b).window = true ∧ s.tokenAt (s.bin b).position = some k) ∧
    (∃ (s : State) (k : Token), s.Ready ∧ s.Sound ∧ s.tokenAt 31 = some k) ∧
    (∃ (s : State), s.Ready ∧ s.Sound ∧ s.tokenAt 31 = none ∧ s.endFlag = true) ∧
    (∃ (s : State) (b : BinId) (p q : Position) (k : Token), s.Ready ∧ s.Sound ∧ s.conveyor.carries = false ∧
      s.conveyor.code ≠ 1#8 ∧ q.val = p.val + 1 ∧ s.tokenAt p = some k ∧ k.destination = some b ∧ (s.bin b).position = q) ∧
    (∃ (s : State) (b : BinId) (p : Position) (k : Token) (m : Material), s.Ready ∧ s.Sound ∧ ((s.bin b).state = .opened ∨
      (s.bin b).state = .compactPending) ∧ (s.bin b).ready = true ∧ s.tokenAt p = some k ∧ k.destination = some b ∧
      k.material = some m ∧ (∀ b' : BinId, b' ≠ b → (s.bin b').eligible m = true → (s.bin b').position ≤ p)) ∧
    (∃ (s : State) (b : BinId), s.Ready ∧ (s.bin b).window = true ∧ s.Sound ∧ (s.bin b).fill + 1 = (s.bin b).nearFull) ∧
    (∃ (s : State) (b : BinId), s.Ready ∧ (s.bin b).window = true ∧ s.Sound ∧ (s.bin b).fill + 1 ≠ (s.bin b).nearFull ∧
      ((s.bin b).fill + 1 = (s.bin b).capacity ∨ (s.bin b).state = .compactPending ∧ (s.bin b).reserved = 1)) :=
  ⟨⟨partQueryBin, 0, 7, { length := 13, value := 5 }, ((partQueryBin.lane 0).record.getD default), 1, 1, ⟨ready_partQueryBin,
    rfl⟩, by decide +kernel⟩,
   ⟨partQuery, 0, 7, { length := 13, value := 5 }, ((partQuery.lane 0).record.getD default), ⟨ready_partQuery, rfl⟩,
     by decide +kernel⟩,
   ⟨partWeighBin, 0, 0x0064#16, ((partWeighBin.lane 0).record.getD default), { length := 13, value := 5 }, 1, 1,
     ready_partWeighBin, by decide +kernel⟩,
   ⟨partQuery, 0, ((partQuery.lane 0).record.getD default), ⟨ready_partQuery, rfl⟩, by decide +kernel⟩,
   ⟨partQuery, 0, ⟨ready_partQuery, rfl⟩, by decide +kernel⟩,
   ⟨partStrayQuery, 0,
     { lit0 := 0x00#8, lit1 := 0xfe#8, lit2 := 0xff#8, lit3 := 0xff#8, dark := 0x01#8, mouth := false, button := false },
     ready_partStrayQuery, by decide +kernel⟩,
   ⟨partClosePend, 0, ((partClosePend.lane 0).record.getD default), ⟨ready_partClosePend, rfl⟩, by decide +kernel⟩,
   ⟨partFaultRej, 0, ((partFaultRej.lane 0).record.getD default), ⟨ready_partFaultRej, rfl⟩, by decide +kernel⟩,
   ⟨partRingWin, 1, ((partRingWin.tokenAt (partRingWin.bin 1).position).getD default), ready_partRingWin, sound_partRingWin,
     by decide +kernel⟩,
   ⟨partRingEnd, ((partRingEnd.tokenAt 31).getD default), ready_partRingEnd, sound_partRingEnd, by decide +kernel⟩,
   ⟨partRingFlag, ready_partRingFlag, sound_partRingFlag, by decide +kernel⟩,
   ⟨partRingStop, 1, 4, 5, ((partRingStop.tokenAt 4).getD default), ready_partRingStop, sound_partRingStop, by decide +kernel⟩,
   ⟨partRingTok, 1, 4, ((partRingTok.tokenAt 4).getD default), .metal, ready_partRingTok, sound_partRingTok, by decide +kernel⟩,
   ⟨partRingNear, 1, ready_partRingNear, by decide +kernel, sound_partRingNear, by decide +kernel⟩,
   ⟨partRingLast, 1, ready_partRingLast, by decide +kernel, sound_partRingLast, by decide +kernel⟩⟩

theorem test_witness_PocketGrantAndItsTimers :
    (∃ (s : State) (l : Lane) (rest : List Lane), s.resetAsserted = false ∧ s.link.intake = [] ∧ s.pocket = .empty ∧
      s.pocketBeam = false ∧ s.conveyor.barsGrants = false ∧ s.catchCount < s.corner.catchCapacity ∧ s.requests = l :: rest ∧
      l ∉ rest ∧ (s.lane l).record ≠ none) ∧
    (∃ (s : State), s.Ready) ∧
    (∃ (s : State) (l : Lane) (n : Nat) (r : ContainerRecord), s.Ready ∧ s.pocket = .granted l n ∧ (s.lane l).state =
      .handoff ∧ (s.lane l).record = some r ∧ l ∉ s.requests) ∧
    (∃ (s : State), s.Ready ∧ (∀ l : Lane, s.pocket.grantedTo l = false)) ∧
    (∃ (s : State) (n : Nat), s.Ready ∧ s.pocket = .releasing n) ∧
    (∃ (s : State) (n : Nat), s.Ready ∧ s.pocket ≠ .releasing n ∧ s.pocket.code ≠ 4#8) :=
  ⟨⟨partDueGrant, 0, [], by decide +kernel⟩,
   ⟨partBase, ready_partBase⟩,
   ⟨partHandoff, 0, 1500,
     ((partHandoff.lane (match partHandoff.pocket with | .granted 0 _ => 0 | _ => 0)).record.getD default), ready_partHandoff,
     by decide +kernel⟩,
   ⟨partBase, ready_partBase, by decide +kernel⟩,
   ⟨partPocketRel, 400, ready_partPocketRel, by decide +kernel⟩,
   ⟨partBase, 7, ready_partBase, by decide +kernel⟩⟩

theorem test_witness_PocketBeamLoadsAndFrees :
    (∃ (s : State) (v : Bool), s.Ready ∧ s.pocketBeam = v) ∧
    (∃ (s : State), s.Ready ∧ s.pocketBeam = false ∧ s.pocket = .empty) ∧
    (∃ (s : State) (r : ContainerRecord), s.Ready ∧ s.pocketBeam = false ∧ (s.pocket = .loaded r ∨ s.pocket = .foreign ∨
      s.pocket = .fault)) ∧
    (∃ (s : State) (n : Nat), s.Ready ∧ s.pocketBeam = false ∧ s.pocket = .releasing n) ∧
    (∃ (s : State) (l : Lane) (n : Nat) (r : ContainerRecord) (c : ClassId) (m : Material) (v : Nat) (b : BinId), s.Ready ∧
      s.pocketBeam = false ∧ s.pocket = .granted l n ∧ (s.lane l).record = some r ∧ r.cls = some c ∧ r.unitValue = some v ∧
      r.material = some m ∧ r.destination = some b ∧ ((s.bin b).state = .opened ∨ (s.bin b).state = .compactPending) ∧
      (s.bin b).materials.has m = true ∧ (s.lane l).closePending = false ∧ (s.lane l).session.state ≠ .closing ∧ l ∉ s.requests) ∧
    (∃ (s : State) (l : Lane) (n : Nat) (r : ContainerRecord) (c : ClassId) (m : Material) (v : Nat), s.Ready ∧ s.pocketBeam =
      false ∧ s.pocket = .granted l n ∧ (s.lane l).record = some r ∧ r.cls = some c ∧ r.unitValue = some v ∧ r.material =
      some m ∧ r.destination = none ∧ (s.lane l).closePending = false ∧ (s.lane l).session.state ≠ .closing ∧ l ∉ s.requests) ∧
    (∃ (s : State) (l : Lane) (n : Nat) (r : ContainerRecord) (c : ClassId) (m : Material) (v : Nat) (b : BinId), s.Ready ∧
      s.pocketBeam = false ∧ s.pocket = .granted l n ∧ (s.lane l).record = some r ∧ r.cls = some c ∧ r.unitValue = some v ∧
      r.material = some m ∧ r.destination = some b ∧ (¬ (((s.bin b).state = .opened ∨ (s.bin b).state = .compactPending) ∧
      (s.bin b).materials.has m = true)) ∧ (s.lane l).closePending = false ∧ (s.lane l).session.state ≠ .closing ∧
      l ∉ s.requests) ∧
    (∃ (s : State) (l : Lane) (n : Nat) (r : ContainerRecord) (c : ClassId) (m : Material) (v : Nat) (b : BinId), s.Ready ∧
      s.pocketBeam = false ∧ s.pocket = .granted l n ∧ (s.lane l).record = some r ∧ r.cls = some c ∧ r.unitValue = some v ∧
      r.material = some m ∧ r.destination = some b ∧ ((s.bin b).state = .opened ∨ (s.bin b).state = .compactPending) ∧
      (s.bin b).materials.has m = true ∧ ((s.lane l).closePending = true ∨ (s.lane l).session.state = .closing) ∧
      (s.lane l).state = .handoff ∧ ((s.lane l).session.state = .closing → (s.lane l).holds.sessionClosing = true) ∧
      (s.lane l).session.voucherWaiting = false ∧ (s.lane l).calRunning = false ∧ l ∉ s.requests) ∧
    (∃ (s : State) (l : Lane) (n : Nat) (r : ContainerRecord) (c : ClassId) (m : Material) (v : Nat), s.Ready ∧ s.pocketBeam =
      false ∧ s.pocket = .granted l n ∧ (s.lane l).record = some r ∧ r.cls = some c ∧ r.unitValue = some v ∧ r.material =
      some m ∧ r.destination = none ∧ ((s.lane l).closePending = true ∨ (s.lane l).session.state = .closing) ∧
      (s.lane l).state = .handoff ∧ ((s.lane l).session.state = .closing → (s.lane l).holds.sessionClosing = true) ∧
      (s.lane l).session.voucherWaiting = false ∧ (s.lane l).calRunning = false ∧ l ∉ s.requests) ∧
    (∃ (s : State) (l : Lane) (n : Nat) (r : ContainerRecord) (c : ClassId) (m : Material) (v : Nat) (b : BinId), s.Ready ∧
      s.pocketBeam = false ∧ s.pocket = .granted l n ∧ (s.lane l).record = some r ∧ r.cls = some c ∧ r.unitValue = some v ∧
      r.material = some m ∧ r.destination = some b ∧ (¬ (((s.bin b).state = .opened ∨ (s.bin b).state = .compactPending) ∧
      (s.bin b).materials.has m = true)) ∧ ((s.lane l).closePending = true ∨ (s.lane l).session.state = .closing) ∧
      (s.lane l).state = .handoff ∧ ((s.lane l).session.state = .closing → (s.lane l).holds.sessionClosing = true) ∧
      (s.lane l).session.voucherWaiting = false ∧ (s.lane l).calRunning = false ∧ l ∉ s.requests) ∧
    (∃ (s : State) (n : Nat), s.Ready ∧ s.pocketBeam = true ∧ s.pocket = .releasing n) ∧
    (∃ (s : State) (r : ContainerRecord), s.Ready ∧ s.pocketBeam = true ∧ (s.pocket = .loaded r ∨ s.pocket = .foreign ∨
      s.pocket = .fault)) ∧
    (∃ (s : State) (l : Lane) (n : Nat), s.Ready ∧ s.pocketBeam = true ∧ s.pocket = .granted l n) :=
  ⟨⟨partBase, false, ready_partBase, by decide +kernel⟩,
   ⟨partBase, ready_partBase, by decide +kernel⟩,
   ⟨partPocketLoadedClear, (match partPocketLoadedClear.pocket with | .loaded r => r | _ => default),
     ready_partPocketLoadedClear, by decide +kernel⟩,
   ⟨partPocketRel, 400, ready_partPocketRel, by decide +kernel⟩,
   ⟨partHandoffBin, 0, 1500,
     ((partHandoffBin.lane (match partHandoffBin.pocket with | .granted 0 _ => 0 | _ => 0)).record.getD default), 1, .metal,
     10, 1, ready_partHandoffBin, by decide +kernel⟩,
   ⟨partHandoff, 0, 1500,
     ((partHandoff.lane (match partHandoff.pocket with | .granted 0 _ => 0 | _ => 0)).record.getD default), 1, .metal, 10,
     ready_partHandoff, by decide +kernel⟩,
   ⟨partHandoffRe, 0, 1500,
     ((partHandoffRe.lane (match partHandoffRe.pocket with | .granted 0 _ => 0 | _ => 0)).record.getD default), 1, .metal, 10,
     1, ready_partHandoffRe, by decide +kernel⟩,
   ⟨partHandoffClose, 0, 1500,
     ((partHandoffClose.lane (match partHandoffClose.pocket with | .granted 0 _ => 0 | _ => 0)).record.getD default), 1,
     .metal, 10, 1, ready_partHandoffClose, by decide +kernel⟩,
   ⟨partHandoffCloseNone, 0, 1500,
     ((partHandoffCloseNone.lane (match partHandoffCloseNone.pocket with | .granted 0 _ => 0 | _ => 0)).record.getD default),
     1, .metal, 10, ready_partHandoffCloseNone, by decide +kernel⟩,
   ⟨partHandoffCloseRe, 0, 1500,
     ((partHandoffCloseRe.lane (match partHandoffCloseRe.pocket with | .granted 0 _ => 0 | _ => 0)).record.getD default), 1,
     .metal, 10, 1, ready_partHandoffCloseRe, by decide +kernel⟩,
   ⟨partPocketRelBeam, 400, ready_partPocketRelBeam, by decide +kernel⟩,
   ⟨partHold, (match partHold.pocket with | .loaded r => r | _ => default), ready_partHold, by decide +kernel⟩,
   ⟨partHandoffBeam, 0, 1500, ready_partHandoffBeam, by decide +kernel⟩⟩

theorem test_witness_ConveyorTimersAndWork :
    (∃ (s : State), s.resetAsserted = false ∧ s.link.intake = [] ∧ s.conveyor = .stopped ∧ s.workPresent = true) ∧
    (∃ (s : State) (n : Nat), s.resetAsserted = false ∧ s.link.intake = [] ∧ s.conveyor = .running n ∧ s.workPresent = false) ∧
    (∃ (s : State), s.Ready) ∧
    (∃ (s : State), s.Ready) ∧
    (∃ (s : State) (n : Nat), s.Ready ∧ s.conveyor = .starting n) ∧
    (∃ (s : State), s.Ready ∧ s.conveyor.code ≠ 1#8) ∧
    (∃ (s : State), s.Ready ∧ s.conveyor.carries = true) ∧
    (∃ (s : State), s.Ready ∧ s.conveyor.carries = false) ∧
    (∃ (s : State) (m n : Nat), s.Ready ∧ s.conveyor = .runOut m n) ∧
    (∃ (s : State), s.Ready ∧ s.conveyor.code ≠ 3#8) :=
  ⟨⟨partDueGrant, by decide +kernel⟩,
   ⟨partDueRun, 1500, by decide +kernel⟩,
   ⟨partBase, ready_partBase⟩,
   ⟨partBase, ready_partBase⟩,
   ⟨partPocketForeign, 1000, ready_partPocketForeign, by decide +kernel⟩,
   ⟨partBase, ready_partBase, by decide +kernel⟩,
   ⟨partHold, ready_partHold, by decide +kernel⟩,
   ⟨partBase, ready_partBase, by decide +kernel⟩,
   ⟨partConvRunOut, 1500, 10, ready_partConvRunOut, by decide +kernel⟩,
   ⟨partBase, ready_partBase, by decide +kernel⟩⟩

theorem test_witness_DiverterPulseEndsAndEndBeamSetsItsFlag :
    (∃ (s : State), s.Ready) ∧
    (∃ (s : State), s.Ready) :=
  ⟨⟨partBase, ready_partBase⟩,
   ⟨partBase, ready_partBase⟩⟩

theorem test_witness_IndexAdvanceMovesReleasesAndDiverts :
    (∃ (s : State), s.Ready ∧ s.Sound ∧ (s.conveyor.carries = true ∨ s.conveyor.code = 1#8)) ∧
    (∃ (s : State), s.Ready ∧ s.Sound ∧ s.conveyor.carries = false ∧ s.conveyor.code ≠ 1#8) :=
  ⟨⟨partHold, ready_partHold, sound_partHold, by decide +kernel⟩,
   ⟨partBase, ready_partBase, sound_partBase, by decide +kernel⟩⟩

theorem test_witness_EntryBeamDeliversOrCountsAStray :
    (∃ (s : State) (b : BinId), s.Ready ∧ (s.bin b).window = true ∧ s.Sound) ∧
    (∃ (s : State) (b : BinId), s.Ready ∧ (s.bin b).window = false ∧ (s.bin b).state ≠ .unconfigured) ∧
    (∃ (s : State) (b : BinId), s.Ready ∧ (s.bin b).window = false ∧ (s.bin b).state = .unconfigured) :=
  ⟨⟨partRingWin, 1, ready_partRingWin, by decide +kernel, sound_partRingWin⟩,
   ⟨partWeighBin, 1, ready_partWeighBin, by decide +kernel⟩,
   ⟨partBase, 1, ready_partBase, by decide +kernel⟩⟩

theorem test_witness_SeatingFollowsTheContacts :
    (∃ (s : State) (b : BinId) (v w : Bool), s.Ready ∧ (s.bin b).contacts = contactsOf v w) ∧
    (∃ (s : State) (b : BinId) (v w : Bool), s.Ready ∧ (s.bin b).contacts ≠ contactsOf v w ∧ (s.bin b).seating ≠ .seated) ∧
    (∃ (s : State) (b : BinId) (v w : Bool), s.Ready ∧ (s.bin b).contacts ≠ contactsOf v w ∧ (s.bin b).seating = .seated ∧
      ((s.bin b).state = .fault ∨ (s.bin b).state = .absent ∨ (s.bin b).state = .unconfigured ∨ (s.bin b).state = .service)) ∧
    (∃ (s : State) (b : BinId) (v w : Bool), s.Ready ∧ (s.bin b).contacts ≠ contactsOf v w ∧ (s.bin b).seating = .seated ∧
      ((s.bin b).state = .powering ∨ (s.bin b).state = .opened ∨ (s.bin b).state = .compactPending ∨ (s.bin b).state =
      .compacting ∨ (s.bin b).state = .full) ∧ s.holders b = 0) ∧
    (∃ (s : State) (b : BinId) (v w : Bool), s.Ready ∧ (s.bin b).contacts ≠ contactsOf v w ∧ (s.bin b).seating = .seated ∧
      ((s.bin b).state = .powering ∨ (s.bin b).state = .opened ∨ (s.bin b).state = .compactPending ∨ (s.bin b).state =
      .compacting ∨ (s.bin b).state = .full) ∧ s.LanesCoherent ∧ s.MergeCoherent) ∧
    (∃ (s : State) (b : BinId), s.Ready ∧ (s.bin b).debouncing = false) ∧
    (∃ (s : State) (b : BinId), s.Ready ∧ (s.bin b).debouncing = true ∧ (s.bin b).seating = (s.bin b).contacts.seating) ∧
    (∃ (s : State) (b : BinId), s.Ready ∧ (s.bin b).debouncing = true ∧ (s.bin b).contacts = .both ∧
      (s.bin b).seating ≠ .seated ∧ (s.bin b).state = .absent) ∧
    (∃ (s : State) (b : BinId), s.Ready ∧ (s.bin b).debouncing = true ∧ (s.bin b).contacts = .both ∧
      (s.bin b).seating ≠ .seated ∧ (s.bin b).state ≠ .absent) ∧
    (∃ (s : State) (b : BinId), s.Ready ∧ (s.bin b).debouncing = true ∧ (s.bin b).contacts = .one ∧
      (s.bin b).seating ≠ .partially ∧ (s.bin b).state ≠ .unconfigured) ∧
    (∃ (s : State) (b : BinId), s.Ready ∧ (s.bin b).debouncing = true ∧ (s.bin b).contacts = .neither ∧ (s.bin b).seating =
      .partially) :=
  ⟨⟨partBase, 1, false, false, ready_partBase, by decide +kernel⟩,
   ⟨partBase, 1, true, true, ready_partBase, by decide +kernel⟩,
   ⟨partBUnconfSeated, 1, false, true, ready_partBUnconfSeated, by decide +kernel⟩,
   ⟨partWeighBin, 1, false, false, ready_partWeighBin, by decide +kernel⟩,
   ⟨partWeighBin, 1, false, false, ready_partWeighBin, by decide +kernel⟩,
   ⟨partWeighBin, 1, ready_partWeighBin, by decide +kernel⟩,
   ⟨partBase, 1, ready_partBase, by decide +kernel⟩,
   ⟨partBAbsentBoth, 1, ready_partBAbsentBoth, by decide +kernel⟩,
   ⟨partBFaultBoth, 1, ready_partBFaultBoth, by decide +kernel⟩,
   ⟨partBOne, 1, ready_partBOne, by decide +kernel⟩,
   ⟨partBPartial, 1, ready_partBPartial, by decide +kernel⟩⟩

theorem test_witness_ReadyAndPowerUpDecideTheBin :
    (∃ (s : State) (b : BinId) (v : Bool), s.Ready ∧ (s.bin b).ready = v) ∧
    (∃ (s : State) (b : BinId), s.Ready ∧ (s.bin b).ready = false ∧ (s.bin b).state = .powering) ∧
    (∃ (s : State) (b : BinId), s.Ready ∧ (s.bin b).ready = false ∧ (s.bin b).state ≠ .powering) ∧
    (∃ (s : State) (b : BinId), s.Ready ∧ (s.bin b).ready = true ∧ ((s.bin b).state = .unconfigured ∨ (s.bin b).state =
      .absent ∨ (s.bin b).state = .powering ∨ (s.bin b).state = .service ∨ (s.bin b).state = .fault)) ∧
    (∃ (s : State) (b : BinId), s.Ready ∧ (s.bin b).ready = true ∧ ((s.bin b).state = .opened ∨ (s.bin b).state =
      .compactPending ∨ (s.bin b).state = .compacting ∨ (s.bin b).state = .full) ∧ s.holders b = 0) ∧
    (∃ (s : State) (b : BinId), s.Ready ∧ (s.bin b).ready = true ∧ ((s.bin b).state = .opened ∨ (s.bin b).state =
      .compactPending ∨ (s.bin b).state = .compacting ∨ (s.bin b).state = .full) ∧ s.LanesCoherent ∧ s.MergeCoherent) ∧
    (∃ (s : State) (b : BinId), s.Ready ∧ (s.bin b).state = .powering) ∧
    (∃ (s : State) (b : BinId), s.Ready ∧ (s.bin b).state ≠ .powering) :=
  ⟨⟨partBase, 1, false, ready_partBase, by decide +kernel⟩,
   ⟨partBPower, 1, ready_partBPower, by decide +kernel⟩,
   ⟨partBase, 1, ready_partBase, by decide +kernel⟩,
   ⟨partBAbsent, 1, ready_partBAbsent, by decide +kernel⟩,
   ⟨partWeighBin, 1, ready_partWeighBin, by decide +kernel⟩,
   ⟨partWeighBin, 1, ready_partWeighBin, by decide +kernel⟩,
   ⟨partBPower, 1, ready_partBPower, by decide +kernel⟩,
   ⟨partBase, 1, ready_partBase, by decide +kernel⟩⟩

theorem test_witness_CompactionRunsAndEnds :
    (∃ (s : State) (b : BinId), s.resetAsserted = false ∧ s.link.intake = [] ∧ (s.bin b).state = .compactPending ∧
      (s.bin b).reserved = 0) ∧
    (∃ (s : State), s.Ready) ∧
    (∃ (s : State) (b : BinId), s.Ready ∧ (s.bin b).state = .compacting) ∧
    (∃ (s : State) (b : BinId), s.Ready ∧ (s.bin b).state ≠ .compacting) ∧
    (∃ (s : State) (b : BinId), s.Ready ∧ (s.bin b).state = .compacting) ∧
    (∃ (s : State) (b : BinId), s.Ready ∧ (s.bin b).state ≠ .compacting) :=
  ⟨⟨partDueCompact, 1, by decide +kernel⟩,
   ⟨partBase, ready_partBase⟩,
   ⟨partBCompact, 1, ready_partBCompact, by decide +kernel⟩,
   ⟨partBase, 1, ready_partBase, by decide +kernel⟩,
   ⟨partBCompact, 1, ready_partBCompact, by decide +kernel⟩,
   ⟨partBase, 1, ready_partBase, by decide +kernel⟩⟩

theorem test_witness_HeldOutReportEntersTheFreedPlace :
    (∃ (s : State) (f : Frame) (r : Report), s.resetAsserted = false ∧ ({ s with
        link := { s.link with heldOut := [] } }
        : State).settled ∧ s.link.transmitter = some f ∧ s.link.queue.length < 32 ∧ s.link.heldOut = [r] ∧
          r.treatment ≠ .waiting) ∧
    (∃ (s : State) (f : Frame) (l : Lane) (seq : Nat) (code : Code), s.resetAsserted = false ∧ ({ s with
        link := { s.link with heldOut := [] } }
        : State).settled ∧ s.link.transmitter = some f ∧ s.link.queue.length < 32 ∧ s.link.heldOut = [.codeQuery l seq code] ∧
          (s.lane l).query = .waitingRoom seq code) ∧
    (∃ (s : State) (f : Frame) (l : Lane) (v : VoucherReport), s.resetAsserted = false ∧ ({ s with
        link := { s.link with heldOut := [] } }
        : State).settled ∧ s.link.transmitter = some f ∧ s.link.queue.length < 32 ∧ s.link.heldOut = [.voucher v] ∧ v.lane = l) ∧
    (∃ (s : State), s.Ready) :=
  ⟨⟨partDueHeld, { kind := 0x84#8, tag := 0x00#8, body := [] }, (partDueHeld.link.heldOut.headD (.ring .phantom 0)),
    by decide +kernel⟩,
   ⟨partDueQuery, { kind := 0x84#8, tag := 0x00#8, body := [] }, 0, 7, { length := 13, value := 5 }, by decide +kernel⟩,
   ⟨partDueVHeld, { kind := 0x84#8, tag := 0x00#8, body := [] }, 0,
     (match partDueVHeld.link.heldOut with | .voucher v :: _ => v | _ => default), by decide +kernel⟩,
   ⟨partBase, ready_partBase⟩⟩

theorem test_witness_ResetRestsTheOutputsAndResetsTheBlocks :
    (∃ (s : State) (i : Instr), s.resetAsserted = true ∧ i ≠ .resetAsserted ∧ i ≠ .resetReleased) ∧
    (∃ (s : State), s.resetAsserted = true) ∧
    (∃ (s : State), s.resetAsserted = false) :=
  ⟨⟨partInReset, (.haltOn { tag := 0xb7#8, len := 2 }), by decide +kernel⟩,
   ⟨partInReset, by decide +kernel⟩,
   ⟨partBase, by decide +kernel⟩⟩

/-! ### Witnesses of the statements that quantify otherwise -/

/-- The state after a row. -/
def after (i : Instr) (s : State) : State :=
  match exec i s with
  | .next t => t
  | .fault _ => s
  | .refused _ => s

/-- A part with one row waiting. -/
def waiting (i : Instr) (s : State) : State := { s with pending := [i] }

theorem test_witness_EveryStepLeavesThePartAtRest :
    ∃ s t : State, s.Rests ∧ step s = .next t :=
  ⟨waiting (.mouthBeamChange 0 true) partReady, after (.mouthBeamChange 0 true) partReady, by decide +kernel, rfl⟩

theorem test_witness_RestSaysWhatTheManualSaysOfEveryMoment : ∃ s : State, s.Ready ∧ s.conveyor.carries = true :=
  ⟨partHold, ready_partHold, rfl⟩

theorem test_witness_BuffersAndBinPositionsStayLawful :
    ∃ s t : State, step s = .next t ∧ s.link.bounded = true ∧ s.PositionsApart :=
  ⟨waiting (.hostByteReceived 0xA5#8 false) partTxHeld, after (.hostByteReceived 0xA5#8 false) partTxHeld, rfl, by decide +kernel,
   by decide +kernel⟩

theorem test_witness_SessionTotalsAlwaysAddUp : ∃ s t : State, s.SessionsAdd ∧ step s = .next t :=
  ⟨waiting (.sessionIdleTimerExpiry 0) partReadySess, after (.sessionIdleTimerExpiry 0) partReadySess, by decide +kernel, rfl⟩

/-- Lane 0 in HANDOFF with a record routed to bin 1, and a token of another lane before bin 1. -/
def partCarrying : State :=
  { partHandoffBin with
    ring := State.reset.ring.set 4 (some { aToken with origin := .lane 2, seq := some 90 })
    bins := partHandoffBin.bins.set 1 { binIn .opened with reserved := 2 }
    counters := { FlowCounters.zero with handedOff := 1 } }

theorem sound_partCarrying : partCarrying.Sound :=
  ⟨by decide +kernel, by decide +kernel, by decide +kernel, by decide +kernel, by decide +kernel, by decide +kernel, by decide +kernel⟩

theorem test_witness_LanesStayCoherent : ∃ s t : State, s.LanesCoherent ∧ s.MergeCoherent ∧ step s = .next t :=
  ⟨waiting (.pocketBeamChange true) partCarrying, after (.pocketBeamChange true) partCarrying, sound_partCarrying.lanes,
   sound_partCarrying.merge, rfl⟩

theorem test_witness_ReservationsAreCountedExactly :
    ∃ s t : State, s.LanesCoherent ∧ s.MergeCoherent ∧ s.PositionsApart ∧ s.WindowsCoherent ∧ s.ReservationsExact ∧ step s = .next t :=
  ⟨waiting (.binReadyChange 1 false) partCarrying, after (.binReadyChange 1 false) partCarrying, sound_partCarrying.lanes,
   sound_partCarrying.merge, sound_partCarrying.positions, sound_partCarrying.windows, sound_partCarrying.reservations, rfl⟩

theorem test_witness_FlowCountersBalance :
    ∃ s t : State, s.LanesCoherent ∧ s.MergeCoherent ∧ s.PositionsApart ∧ s.WindowsCoherent ∧ s.ReservationsExact ∧ s.FlowBalances ∧
      step s = .next t :=
  ⟨waiting .indexAdvance partCarrying, after .indexAdvance partCarrying, sound_partCarrying.lanes, sound_partCarrying.merge,
   sound_partCarrying.positions, sound_partCarrying.windows, sound_partCarrying.reservations, sound_partCarrying.flow, rfl⟩

theorem test_witness_CommandFramesReadBack :
    (∃ (i : Instr) (h : CmdHead) (n : Nat) (f : Frame),
      i.wellFormed = true ∧ headOf i = some h ∧ bodyLength i = some n ∧ h.len = n ∧ frameOf i = some f) ∧
    (∃ f : Frame, isCommandKind f.kind = false) :=
  ⟨⟨.codeAnswer ⟨0xF0#8, 4⟩ 255 65535 255, ⟨0xF0#8, 4⟩, 4, ⟨0x09#8, 0xF0#8, [0xFF#8, 0xFF#8, 0xFF#8, 0xFF#8]⟩, by decide⟩,
   ⟨⟨0x10#8, 0#8, []⟩, by decide⟩⟩

theorem test_witness_CommandChecksComeInOrder :
    (∃ f : Frame, (f.kind = 0x06#8 ∨ f.kind = 0x0C#8 ∨ f.kind = 0x0E#8) ∧ f.body = []) ∧
    (∃ (f : Frame) (x : Byte) (xs : List Byte), f.body = x :: xs ∧
      (f.kind = 0x06#8 ∧ 1 < x.toNat ∨ f.kind = 0x0C#8 ∧ 3 < x.toNat ∨ f.kind = 0x0E#8 ∧ 4 < x.toNat)) ∧
    (∃ (f : Frame) (x y : Byte), f.kind = 0x0C#8 ∧ f.body = [0#8, y, x] ∧ 2 < x.toNat) ∧
    (∃ (f : Frame) (x : Byte), f.kind = 0x0D#8 ∧ f.body = [x] ∧ 1 < x.toNat) ∧
    (∃ (f : Frame) (x y z w : Byte), f.kind = 0x0A#8 ∧ f.body = [x, y, z, w] ∧ 1 < x.toNat) ∧
    (∃ (f : Frame) (x : Byte) (xs : List Byte), f.body = x :: xs ∧ f.kind = 0x0E#8 ∧ (x = 2 ∨ x = 3) ∧ f.body.length ≠ 1) ∧
    (∃ f : Frame, f.kind = 0x01#8 ∧ f.body.length ≠ 17) ∧ (∃ f : Frame, f.kind.toNat = 0 ∨ 15 < f.kind.toNat) :=
  ⟨⟨⟨0x0C#8, 0#8, []⟩, by decide⟩, ⟨⟨0x0E#8, 0#8, [5#8]⟩, 5#8, [], by decide⟩, ⟨⟨0x0C#8, 0#8, [0#8, 0#8, 3#8]⟩, 3#8, 0#8, by decide⟩,
   ⟨⟨0x0D#8, 0#8, [2#8]⟩, 2#8, by decide⟩, ⟨⟨0x0A#8, 0#8, [2#8, 0#8, 0#8, 0#8]⟩, 2#8, 0#8, 0#8, 0#8, by decide⟩,
   ⟨⟨0x0E#8, 0#8, [3#8, 0#8]⟩, 3#8, [0#8], by decide⟩,
   ⟨⟨0x01#8, 0#8, List.replicate 16 0#8⟩, by decide⟩, ⟨⟨0x10#8, 0#8, []⟩, by decide⟩⟩

theorem test_witness_BytesOfAFrameMakeItsCompletion :
    ∃ (s : State) (f : Frame) (c : BitVec 16) (init : List Byte) (b : Byte),
      s.Ready ∧ s.link.receiver = ⟨.hunt, []⟩ ∧ f.body.length ≤ 240 ∧ wireWith f c = init ++ [b] :=
  ⟨partBase, ⟨0x07#8, 0x37#8, [2#8]⟩, 0x0041#16, [0xA5#8, 1#8, 7#8, 0x37#8, 2#8, 0x41#8], 0#8, ready_partBase, rfl, by decide,
   by decide⟩

theorem test_witness_BeamsSettleAndGroupIntoRuns :
    (∃ (c : Curtain) (raw : BitVec 32) (i : Nat), i < 32 ∧ raw.getLsbD i ≠ c.settled.getLsbD i ∧ c.pending.getLsbD i = true) ∧
    (∃ (b : BitVec 32) (i : Nat), b.getLsbD i = true) ∧ (∃ b : BitVec 32, ∃ r ∈ runsOf b, ∃ i, r.1 ≤ i ∧ i < r.2) :=
  ⟨⟨{ Curtain.reset with pending := 0x80000000#32 }, 0x80000000#32, 31, by decide⟩, ⟨1#32, 0, by decide⟩,
   ⟨0x5FFFF#32, (0, 18), by decide, 16, by decide⟩⟩

theorem test_witness_LinesAreJudgedByTheirCheckDigit :
    (∃ line : List Byte, line.length ≠ 8 ∧ line.length ≠ 13) ∧
    (∃ (line : List Byte) (c : Byte), c ∈ line ∧ (c.toNat < 0x30 ∨ 0x39 < c.toNat)) ∧
    (∃ ds : List Nat, (∀ d ∈ ds, d ≤ 9) ∧ (ds.length = 8 ∨ ds.length = 13)) :=
  ⟨⟨List.replicate 12 0x30#8, by decide⟩, ⟨[0x3A#8], 0x3A#8, by decide⟩, ⟨[0, 0, 0, 0, 0, 4, 2, 0], by decide⟩⟩

theorem test_witness_WeighingArithmeticRoundsToNearest :
    (∃ n k : Nat, 0 < n ∧ weightOf n k < 20000) ∧ (∃ l : List Int, l.length = 16 ∧ ∀ x ∈ l, -32768 ≤ x ∧ x ≤ 32767) :=
  ⟨⟨1, 65535, by decide⟩, ⟨List.replicate 16 (-32768), by decide⟩⟩

theorem test_witness_DestinationIsPreferredThenRoomiest :
    (∃ (s : State) (m : Material) (b : BinId), (s.bin b).eligible m = true) ∧
    (∃ (s : State) (m : Material) (p : Option BinId) (b : BinId),
      s.chooseBin m p = some b ∧ ∀ q : BinId, p = some q → (s.bin q).eligible m = false) :=
  ⟨⟨partWeighBin, .metal, 1, by decide +kernel⟩, ⟨partWeighBin, .metal, some 0, 1, by decide +kernel⟩⟩

theorem test_witness_ClassChecksComeInOrder :
    ∃ (s : State) (l : Lane) (r : ContainerRecord) (c : ClassId) (w d n : Nat),
      r.weighing = some (.weight w) ∧ r.diameter = some d ∧ r.length = some n ∧ (s.lane l).session.adds ∧
      s.classReason l r c = none ∧ (s.lane l).session.lines.length ≤ 12 :=
  ⟨partReadySess, 0, accepted, 1, 100, 8, 96, rfl, rfl, rfl, by decide +kernel, by decide +kernel, by decide +kernel⟩

theorem test_witness_WhatLeavesThePartFollowsItsTables :
    (∃ (k : LinkPort) (r : Report), (k.queue.any (·.sameSubject r)) = true ∧ k.queue.length = 32) ∧
    (∃ (x : VoucherReport) (i : Nat) (y : SessionLine), x.lines[i]? = some y) ∧
    (∃ (s : State) (p : Position) (k : Token), s.tokenAt p = some k) ∧
    (∃ (s : State) (g : Frame), s.Ready ∧ s.link.receiver.phase ≠ .hunt ∧ s.link.state = .normal ∧ s.link.replySlot = some g ∧
      0xA5#8 ∈ s.link.receiver.kept.drop 1) ∧
    (∃ (s : State) (g : Frame), s.Ready ∧ s.link.state = .normal ∧ s.link.replySlot = some g ∧ s.link.receiver.phase = .len) ∧
    (∃ (s : State) (g : Frame) (b : Byte), s.Ready ∧ s.link.state = .normal ∧ s.link.replySlot = some g ∧
      s.link.receiver.phase = .check ∧ s.link.receiver.kept.length = 5 + fieldAt s.link.receiver.kept 1 1 ∧
      checkOfBytes (s.link.receiver.kept ++ [b]) ≠ checkOfFrame (frameOfBytes (s.link.receiver.kept ++ [b]))) :=
  ⟨⟨{ LinkPort.reset with queue := List.replicate 32 (.lane ⟨1, .ready, none, HoldSet.none, false, 0⟩) },
      .lane ⟨1, .fault, none, HoldSet.none, false, 0⟩, by decide⟩,
   ⟨⟨0, 1, none, [⟨1, 10, 2, 20⟩], 2, 20, 0⟩, 0, ⟨1, 10, 2, 20⟩, rfl⟩, ⟨partRingEnd, 31, Token.foreign, by decide +kernel⟩,
   ⟨partScanAgain, someFrame, ready_partScanAgain, by decide +kernel⟩, ⟨partReplyLen, someFrame, ready_partReplyLen, by decide +kernel⟩,
   ⟨partScanAgain, someFrame, 0#8, ready_partScanAgain, by decide +kernel⟩⟩

theorem test_witness_VerdictsAndTokensMakeTheirReports_runOut : ∃ (s : State) (m n : Nat), s.Ready ∧ s.conveyor = .runOut m n :=
  ⟨partConvRunOut, 1500, 10, ready_partConvRunOut, rfl⟩

/-- R182: a frame that fails its CHECK is discarded, and the 0xA5 that was its KIND starts the next frame, of LEN 0, KIND 0x0B and TAG 1. -/
theorem test_rescan_starts_the_next_frame :
    let t := after (.hostByteReceived 1#8 false) partScanAgain
    t.link.receiver = ⟨.check, [0xA5#8, 0#8, 0x0B#8, 1#8]⟩ ∧ t.link.frameErrors = 1 := by decide +kernel

/-! ### Ill-formed rows: one for each check of WellFormed -/

def okWindow : SetWindowFields := ⟨255, 255, 255, 255, 281474976710655, 281474976710655, 255⟩
def okClass : SetClassFields := ⟨255, 255, 255, 65535, 65535, 65535, 255, 255, 65535, 65535, 255⟩
def okBin : SetBinFields := ⟨255, 255, 255, 65535, 65535, 255, 65535⟩
def okLane : SetLaneFields :=
  ⟨255, 255, 65535, 65535, 255, 65535, 255, 65535, 255, 255, 65535, 4294967295, 65535, 65535, 65535, 65535, 65535, -2147483648, 65535⟩
def okCorner : SetCornerFields := ⟨65535, 255, 65535, 65535, 255, 65535, 255⟩

/-- The widest values are well-formed. -/
theorem test_wellFormed_widest :
    (Instr.setWindow ⟨0#8, 240⟩ okWindow).wellFormed ∧ (Instr.setClass ⟨0#8, 240⟩ okClass).wellFormed ∧
    (Instr.setBin ⟨0#8, 240⟩ okBin).wellFormed ∧ (Instr.setLane ⟨0#8, 240⟩ okLane).wellFormed ∧
    (Instr.setCorner ⟨0#8, 240⟩ okCorner).wellFormed ∧ (Instr.setLane ⟨0#8, 240⟩ { okLane with zero := 2147483647 }).wellFormed := by
  decide

theorem test_wellFormed_setWindow :
    [{ okWindow with entry := 256 }, { okWindow with enabled := 256 }, { okWindow with kind := 256 }, { okWindow with length := 256 },
     { okWindow with low := 281474976710656 }, { okWindow with high := 281474976710656 }, { okWindow with cls := 256 }].all
      (fun f => !(Instr.setWindow ⟨0#8, 17⟩ f).wellFormed) = true := by decide

theorem test_wellFormed_setClass :
    [{ okClass with cls := 256 }, { okClass with enabled := 256 }, { okClass with material := 256 }, { okClass with deposit := 65536 },
     { okClass with weightMin := 65536 }, { okClass with weightMax := 65536 }, { okClass with diameterMin := 256 },
     { okClass with diameterMax := 256 }, { okClass with lengthMin := 65536 }, { okClass with lengthMax := 65536 },
     { okClass with preferred := 256 }].all (fun f => !(Instr.setClass ⟨0#8, 16⟩ f).wellFormed) = true := by decide

theorem test_wellFormed_setBin :
    [{ okBin with bin := 256 }, { okBin with position := 256 }, { okBin with materials := 256 }, { okBin with capacity := 65536 },
     { okBin with nearFull := 65536 }, { okBin with interval := 256 }, { okBin with fill := 65536 }].all
      (fun f => !(Instr.setBin ⟨0#8, 10⟩ f).wellFormed) = true := by decide

theorem test_wellFormed_setLane :
    [{ okLane with lane := 256 }, { okLane with beltPitch := 256 }, { okLane with stopDistance := 65536 },
     { okLane with maxLength := 65536 }, { okLane with settleCount := 256 }, { okLane with stabilityLimit := 65536 },
     { okLane with attempts := 256 }, { okLane with autoZeroInterval := 65536 }, { okLane with zeroBand := 256 },
     { okLane with queryEnabled := 256 }, { okLane with itemCap := 65536 }, { okLane with valueCap := 4294967296 },
     { okLane with standbyTime := 65536 }, { okLane with dormantTime := 65536 }, { okLane with sessionIdleTime := 65536 },
     { okLane with handoffTime := 65536 }, { okLane with returnTravel := 65536 }, { okLane with zero := -2147483649 },
     { okLane with zero := 2147483648 }, { okLane with span := 65536 }].all
      (fun f => !(Instr.setLane ⟨0#8, 36⟩ f).wellFormed) = true := by decide

theorem test_wellFormed_setCorner :
    [{ okCorner with queryTimeout := 65536 }, { okCorner with supervisionTime := 256 }, { okCorner with startTime := 65536 },
     { okCorner with stallTime := 65536 }, { okCorner with runOutTime := 256 }, { okCorner with pocketReleaseTime := 65536 },
     { okCorner with catchCapacity := 256 }].all (fun f => !(Instr.setCorner ⟨0#8, 11⟩ f).wellFormed) = true := by decide

/-- LEN above 240, and LEN 0 where a selector stands. -/
theorem test_wellFormed_len :
    [Instr.setWindow ⟨0#8, 241⟩ okWindow, .setClass ⟨0#8, 241⟩ okClass, .setBin ⟨0#8, 241⟩ okBin, .setLane ⟨0#8, 241⟩ okLane,
     .setCorner ⟨0#8, 241⟩ okCorner, .zero ⟨0#8, 241⟩ 0, .span ⟨0#8, 241⟩ 0 0, .codeAnswer ⟨0#8, 241⟩ 0 0 0,
     .binServiceBegin ⟨0#8, 241⟩ 0 0, .binServiceEnd ⟨0#8, 241⟩ 0 0, .catchEmptied ⟨0#8, 241⟩, .haltOn ⟨0#8, 241⟩, .haltOff ⟨0#8, 241⟩,
     .restart ⟨0#8, 241⟩ 0, .openLane ⟨0#8, 0⟩ 0, .closeLane ⟨0#8, 0⟩ 0, .clearLaneRetry ⟨0#8, 0⟩ 0, .clearLaneReturn ⟨0#8, 0⟩ 0,
     .clearLaneDiscard ⟨0#8, 0⟩ 0, .clearConveyor ⟨0#8, 0⟩, .clearPocket ⟨0#8, 0⟩, .clearBin ⟨0#8, 0⟩ 0, .queryLane ⟨0#8, 0⟩ 0,
     .queryBin ⟨0#8, 0⟩ 0, .queryRing ⟨0#8, 0⟩, .queryCounters ⟨0#8, 0⟩, .querySession ⟨0#8, 0⟩ 0].all (fun i => !i.wellFormed) =
      true := by decide

/-- An operand wider than its type; a command's KIND in UNKNOWN_KIND_COMMAND; a body above 240 bytes. -/
theorem test_wellFormed_operands :
    [Instr.openLane ⟨0#8, 2⟩ 256, .closeLane ⟨0#8, 2⟩ 256, .zero ⟨0#8, 1⟩ 256, .span ⟨0#8, 3⟩ 256 0, .span ⟨0#8, 3⟩ 0 65536,
     .codeAnswer ⟨0#8, 4⟩ 256 0 0, .codeAnswer ⟨0#8, 4⟩ 0 65536 0, .codeAnswer ⟨0#8, 4⟩ 0 0 256, .binServiceBegin ⟨0#8, 4⟩ 256 0,
     .binServiceBegin ⟨0#8, 4⟩ 0 65536, .binServiceEnd ⟨0#8, 4⟩ 256 0, .binServiceEnd ⟨0#8, 4⟩ 0 65536, .clearLaneRetry ⟨0#8, 3⟩ 256,
     .clearLaneReturn ⟨0#8, 3⟩ 256, .clearLaneDiscard ⟨0#8, 3⟩ 256, .clearBin ⟨0#8, 2⟩ 256, .queryLane ⟨0#8, 2⟩ 256,
     .queryBin ⟨0#8, 2⟩ 256, .querySession ⟨0#8, 2⟩ 256, .restart ⟨0#8, 1⟩ 256, .unknownKindCommand ⟨0x0F#8, 0#8, []⟩,
     .unknownKindCommand ⟨0x10#8, 0#8, List.replicate 241 0#8⟩, .frameReceived ⟨0x07#8, 0#8, List.replicate 241 0#8⟩ 0#16].all
      (fun i => !i.wellFormed) = true := by decide +kernel

/-! ### The manual's worked examples -/

/-- 11, worked check sums: ZERO for lane 2 and its reply, and CODE_ANSWER. -/
theorem test_worked_check_sums :
    (⟨0x07#8, 0x37#8, [2#8]⟩ : Frame).wire = [0xA5#8, 0x01#8, 0x07#8, 0x37#8, 0x02#8, 0x41#8, 0x00#8] ∧
    (replyFrame 0x07#8 0x37#8 .ok []).wire = [0xA5#8, 0x02#8, 0x80#8, 0x37#8, 0x07#8, 0x00#8, 0xC0#8, 0x00#8] ∧
    (⟨0x09#8, 0xF0#8, [1#8, 4#8, 2#8, 4#8]⟩ : Frame).wire =
      [0xA5#8, 0x04#8, 0x09#8, 0xF0#8, 0x01#8, 0x04#8, 0x02#8, 0x04#8, 0x08#8, 0x01#8] := by decide

/-- 11: what those frames command. -/
theorem test_worked_frames_read :
    commandOfFrame ⟨0x07#8, 0x37#8, [2#8]⟩ = .command (.zero ⟨0x37#8, 1⟩ 2) ∧
    commandOfFrame ⟨0x09#8, 0xF0#8, [1#8, 4#8, 2#8, 4#8]⟩ = .command (.codeAnswer ⟨0xF0#8, 4⟩ 1 516 4) := by decide

/-- No row of the table gives bits. -/
theorem test_no_word_spells_a_row : decodeTableWord 8 0x07 = none ∧ decodeTableWord 0 0 = none := by decide

/-- 1.7, 2.5, worked check-digit cases: 7312045689014 and its check digit 9, 40063812, 00000055 and 00000420. -/
theorem test_worked_check_digits :
    judgeLine false ([7, 3, 1, 2, 0, 4, 5, 6, 8, 9, 0, 1, 4].map (fun d => BitVec.ofNat 8 (0x30 + d))) = .good ⟨13, 7312045689014⟩ ∧
    judgeLine false ([7, 3, 1, 2, 0, 4, 5, 6, 8, 9, 0, 1, 9].map (fun d => BitVec.ofNat 8 (0x30 + d))) = .badRead ∧
    judgeLine false ([4, 0, 0, 6, 3, 8, 1, 2].map (fun d => BitVec.ofNat 8 (0x30 + d))) = .good ⟨8, 40063812⟩ ∧
    judgeLine false ([0, 0, 0, 0, 0, 0, 5, 5].map (fun d => BitVec.ofNat 8 (0x30 + d))) = .good ⟨8, 55⟩ ∧
    judgeLine false ([0, 0, 0, 0, 0, 4, 2, 0].map (fun d => BitVec.ofNat 8 (0x30 + d))) = .good ⟨8, 420⟩ := by decide

/-- 2.3, one bottle: beams 0 to 16 and 18 blocked are one run of extent 19; by R33 two clear beams part two runs, and one clear beam
below the top ends a run. -/
theorem test_worked_runs :
    runsOf 0x5FFFF#32 = [(0, 18)] ∧ runExtent (0, 18) = 19 ∧ runsOf 0x9#32 = [(0, 0), (3, 3)] ∧ runsOf 0x40000001#32 = [(0, 0), (30, 30)] := by
  decide

/-- R28: beam 8k + r from receiver r in phase k. -/
theorem test_scan_reads_beams : scanBeams ⟨0xFE#8, 0xFF#8, 0x7F#8, 0xFF#8, 0#8, false, false⟩ = 0x00800001#32 := by decide

/-- 3.2, the worked weight: sum 400000 at gain 4, Z 12288, K 40000 give 3785 dg; R55's ends. -/
theorem test_worked_weight :
    normalised (List.replicate 16 25000) .g4 = 1600000 ∧ weightOf (1600000 - 12288) 40000 = 3785 ∧ weightOf 2097152 40000 = 5000 ∧
    weightOf 0 40000 = 0 ∧ weightOf (-1) 40000 = 0 ∧ weightOf 8388352 65535 = 20000 := by decide

/-- 3.3, the worked span, and 3.4, the drifts of a morning. -/
theorem test_worked_span_and_drift :
    spanOf 5000 2097152 = 40000 ∧ driftOf 212 40000 = 1 ∧ driftOf (-96) 40000 = 0 ∧ driftOf 107596 40000 = 257 := by decide

/-- 4.2, a small window set. -/
theorem test_worked_lookups :
    let ws : List CodeWindow :=
      [⟨true, .includes, 13, 7312045000000, 7312045999999, 2⟩, ⟨true, .includes, 13, 7312045600000, 7312045699999, 5⟩,
       ⟨true, .excludes, 13, 7312045689000, 7312045689999, 0⟩, ⟨true, .includes, 8, 40063000, 40063999, 7⟩,
       ⟨false, .includes, 13, 0, 9999999999999, 0⟩, ⟨true, .includes, 13, 7312045600000, 7312045699999, 5⟩]
    lookupIn ws ⟨13, 7312045689014⟩ = .excluded ∧ lookupIn ws ⟨13, 7312045612340⟩ = .found 2 ∧
    lookupIn ws ⟨13, 7312046000009⟩ = .unknown ∧ lookupIn ws ⟨8, 40063812⟩ = .found 7 ∧ lookupIn ws ⟨13, 40063812⟩ = .unknown := by
  decide

/-- A plastic bin of the example of 8.4. -/
def plasticBin (capacity fill reserved : Nat) : BinUnit :=
  { binIn .opened with materials := ⟨true, false, false, false⟩, capacity := capacity, fill := fill, reserved := reserved }

/-- 8.4, three choices: the preferred bin 0, then bin 1 of the two roomiest, then bin 4. -/
theorem test_worked_destinations :
    let s := (((base.setBin 0 (plasticBin 200 199 0)).setBin 1 (plasticBin 400 250 30)).setBin 4 (plasticBin 300 175 5)).setBin 5
      (plasticBin 150 40 0)
    s.chooseBin .plastic (some 0) = some 0 ∧ (s.reserve 0).chooseBin .plastic (some 0) = some 1 ∧
    ((s.reserve 0).reserve 1).chooseBin .plastic none = some 4 := by decide +kernel

/-- 5.4, the order of checks: seq 302 weighs 510 dg and is 25 beams wide; step 5 comes first. seq 304 passes steps 4 to 7. -/
theorem test_worked_checks :
    let s := { withLane { laneIn .weigh with session := ⟨.opened, 5, none, [⟨3, 25, 3, 75⟩, ⟨2, 25, 1, 25⟩], 4, 100, 0, false⟩ } with
      classes := base.classes.set 3 ⟨true, .plastic, 25, 300, 450, 18, 22, 280, 320, some 0⟩ }
    let r := ContainerRecord.fresh 0 302
    s.classReason 0 { r with weighing := some (.weight 510), diameter := some 25, length := some 300 } 3 = some .overweight ∧
    s.classReason 0 { r with weighing := some (.weight 350), diameter := some 20, length := some 300 } 3 = none := by decide +kernel

/-- 5.4: seq 303 holds no code and two bad reads; seq 301 a conflict; seq 304 a code and two bad reads. -/
theorem test_worked_reading_fields :
    { measured with code := none, badReads := 2 }.goodCode = .error .badCheck ∧
    { measured with conflict := true }.goodCode = .error .conflict ∧
    { measured with badReads := 2 }.goodCode = .ok ⟨13, 5⟩ ∧ { measured with code := none }.goodCode = .error .noCode := by decide

/-- 9.7: the credit of seq 44, class 5 at 8 cents, adds the third line: 4 items and 83 cents. -/
theorem test_worked_credit :
    (⟨.closing, 17, some .button, [⟨3, 25, 2, 50⟩, ⟨7, 25, 1, 25⟩], 3, 75, 1, false⟩ : Session).credited 5 8 =
      ⟨.closing, 17, some .button, [⟨3, 25, 2, 50⟩, ⟨7, 25, 1, 25⟩, ⟨5, 8, 1, 8⟩], 4, 83, 1, false⟩ := by decide

/-- 10.4, a full queue: of 32 reports with a LANE report of lane 1 among them, a newer one takes its place, a RING report is lost, and a
LANE report of lane 3 is held out. -/
theorem test_worked_full_queue :
    let old : Report := .lane ⟨1, .ready, none, HoldSet.none, false, 0⟩
    let new : Report := .lane ⟨1, .admitting, none, HoldSet.none, false, 0⟩
    let other : Report := .lane ⟨3, .ready, none, HoldSet.none, false, 0⟩
    let k := { LinkPort.reset with queue := List.replicate 11 (Report.ring .phantom 0) ++ old :: List.replicate 20 (Report.ring .phantom 0) }
    (k.offer new).queue[11]? = some new ∧ (k.offer new).queue.length = 32 ∧ (k.offer (.ring .phantom 1)).lost = true ∧
    (k.offer (.ring .phantom 1)).queue = k.queue ∧ (k.offer other).heldOut = [other] ∧ (k.offer other).lost = false := by decide

/-- The ring of 7.10 just after bin 5's module was pulled out: B, lane 2, seq 7, METAL, at 4 for bin 3, and F, foreign, at 2. -/
def ringOfTheManual : State :=
  { base with
    conveyor := .running 1500, catchCount := 4
    ring := (State.reset.ring.set 2 (some Token.foreign)).set 4 (some ⟨.lane 2, some 7, some 9, some .metal, some 3⟩)
    bins := base.bins.set 3 { binIn .opened with position := 9, materials := ⟨true, true, false, false⟩, reserved := 1 } }

/-- 11.7: the data of a QUERY of that ring. -/
theorem test_worked_ring_data :
    ringOfTheManual.ringData =
      [2#8, 0#8, 0#8, 0#8, 4#8, 0#8, 0xFF#8, 0xFF#8, 0#8, 0#8, 0#8, 0xFF#8, 0xFF#8, 0xFF#8, 0xFF#8, 0#8, 2#8] ++
      [2#8, 4#8, 0#8, 0#8, 0xFF#8, 0xFF#8] ++ [4#8, 2#8, 7#8, 0#8, 0x19#8, 3#8] := by decide +kernel

/-! ### Single rows -/

/-- The state after a row, every open choice (note 1) resolved to its first. -/
def run (i : Instr) (s : State) : State := after i { s with choices := List.replicate 8 0 }

/-- 7.10: an advance with B at position 8 takes it to bin 3 at 9 and fires the diverter; at the next it turns STRAY and moves to 10. -/
theorem test_index_advance :
    let s := { ringOfTheManual with ring := State.reset.ring.set 8 (some ⟨.lane 2, some 7, some 9, some .metal, some 3⟩) }
    let t := run .indexAdvance s
    let u := run .indexAdvance t
    ((t.bin 3).window && (t.bin 3).diverter && !(u.bin 3).window) = true ∧ (t.tokenAt 9).bind (·.destination) = some 3 ∧
    (u.tokenAt 10).map (·.destination) = some none ∧ (u.bin 3).reserved = 0 := by decide +kernel

/-- 1.12: at the 181st pulse 181 × 2 exceeds 360: RETURN with LONG, shutter open, belt in reverse. -/
theorem test_encoder_pulse_long :
    let u := { laneIn .admitting with record := some (ContainerRecord.fresh 0 41), nextSeq := 42, config := LaneConfig.defaults,
                                      curtain := { Curtain.reset with phase := .passing, pulses := 180, settled := 1, extent := 1 } }
    let t := (run (.encoderPulse 0) (withLane u)).lane 0
    t.state = .returning ∧ t.record.bind (·.verdict) = some (.reject .long) ∧ t.shutter = true ∧ t.belt = .reverse ∧
    t.lamp = .flashing := by decide +kernel

/-- 1.12: the mouth settling blocked stops the belt in RETURN; settling clear then ends it in READY. -/
theorem test_mouth_ends_return :
    let t := run (.mouthBeamChange 0 true) partReturning
    let u := run (.mouthBeamChange 0 false) t
    (t.lane 0).belt = .off ∧ (t.lane 0).state = .returning ∧ (u.lane 0).state = .ready ∧ (u.lane 0).record = none := by decide +kernel

/-- 1.12: a blocked mouth behind HALT admits when HALT off is taken. -/
theorem test_halt_off_admits :
    let s := { withLane { laneIn .ready with mouth := ⟨true, false⟩, nextSeq := 41, holds := { HoldSet.none with conveyor := true } } with
      conveyor := .halted }
    let t := run (.haltOff ⟨1#8, 1⟩) s
    (t.lane 0).state = .admitting ∧ (t.lane 0).record.map (·.seq) = some 41 ∧ (t.lane 0).nextSeq = 42 ∧ t.conveyor = .stopped := by
  decide +kernel

/-- 3.2, auto-range after a wake: sixteen full-scale samples at gain 16 step down to gain 4 with settle_count discards and no attempt
spent. -/
theorem test_sample_steps_the_gain_down :
    let u := { laneIn .weigh with record := some measured,
                                  weigher := ⟨.container, .window, .g16, 0, false, List.replicate 10 100 ++ List.replicate 5 32767, 0, none⟩ }
    ((run (.converterSample 0 32767#16) (withLane u)).lane 0).weigher = ⟨.container, .discard, .g4, 4, false, [], 0, none⟩ := by
  decide +kernel

/-- 6.11: a handoff timeout faults the lane and frees the pocket; the list's next lane is granted at the same event. -/
theorem test_handoff_timeout_grants_the_next :
    let s := { (partHandoff.setLane 2 { laneIn .hold with record := some accepted }) with requests := [2] }
    let t := run .handoffTimerExpiry s
    (t.lane 0).faultCause = some .handoffTimeout ∧ (t.lane 0).record = some accepted ∧ t.pocket = .granted 2 1500 ∧ t.requests = [] := by
  decide +kernel

/-- 9.7: at the loading the credit is made first, then the voucher is queued and the next session number is taken. -/
theorem test_loading_credits_then_closes :
    let s := partHandoff.setLane 0 { partHandoff.lane 0 with
      session := ⟨.closing, 17, some .button, [⟨3, 25, 2, 50⟩], 2, 50, 0, false⟩, holds := { HoldSet.none with sessionClosing := true } }
    let t := run (.pocketBeamChange true) s
    (t.lane 0).session = Session.none 18 ∧
    (Report.voucher ⟨0, 17, some .button, [⟨3, 25, 2, 50⟩, ⟨1, 10, 1, 10⟩], 3, 60, 0⟩ ∈ t.link.queue ∨
      t.link.transmitter.map (·.kind) = some 0x83#8) := by decide +kernel

/-- 8.5 and R156: the third delivery with interval 3 and nothing else reserved starts a compaction. -/
theorem test_delivery_starts_compaction :
    let s := partRingWin.setBin 1 { partRingWin.bin 1 with fill := 2 }
    let t := run (.binEntryBeamBlocked 1) s
    (t.bin 1).state = .compacting ∧ (t.bin 1).fill = 3 ∧ (t.bin 1).reserved = 0 ∧ t.counters.delivered = 1 := by decide +kernel

/-- R207: in RESET every output rests, and a row changes nothing. -/
theorem test_reset_holds :
    let t := run .resetAsserted partHandoffBin
    t.motorOut = false ∧ t.beltOut 0 = .off ∧ t.converterOut 0 = true ∧ run .indexAdvance t = t := by decide +kernel

/-- R208 and R164: the release of RESET clears the tables and leaves the raw contacts to be debounced. -/
theorem test_reset_released :
    let t := run .resetReleased (run .resetAsserted partBOpen)
    (t.bin 1).state = .unconfigured ∧ (t.bin 1).contacts = .both ∧ (t.bin 1).debouncing = true ∧ (t.classAt 1).enabled = false := by
  decide +kernel

/-- R182 and R185: the last CHECK byte of a QUERY frame takes the command, and its reply goes out. -/
theorem test_frame_received_is_answered :
    (run (.frameReceived queryFrame (checkOfFrame queryFrame)) State.reset).link.transmitter.map (fun f => (f.kind, f.tag, f.body.take 2)) =
      some (0x80#8, 9#8, [0x0E#8, 0#8]) := by decide +kernel

/-- R194 and R195: a frame that comes together with the expiry leaves one LINK report, which names the restoration, and is answered. -/
theorem test_expiry_with_a_frame_is_one_report :
    let s := { base with link := { base.link with state := .expiring, supervision := some 10 } }
    let t := run (.frameReceived queryFrame (checkOfFrame queryFrame)) s
    t.link.state = .normal ∧ t.link.queue = [.link ⟨.linkRestored, .normal, 0, 0⟩] ∧
      t.link.transmitter.map (·.kind) = some 0x80#8 := by decide +kernel

/-- R188: each set of the reports can be put off; where VOUCHERs are offered for what their entry makes, none of them is. -/
theorem test_reports_can_be_put_off :
    partMade Made.plain 7 [.lane 0, .voucher 0, .conveyor] = ([.voucher 0], [.lane 0, .conveyor]) ∧
      partMade Made.any 6 [.lane 0, .voucher 0, .conveyor] = ([.lane 0], [.voucher 0, .conveyor]) ∧
      partMade Made.any 0 [.lane 0, .voucher 0, .conveyor] = ([.lane 0, .voucher 0, .conveyor], []) := by decide +kernel

/-! ### Two commands at one event, and a query at a RESTART -/

/-- A frame whose body spells HALT on and OPEN_LANE 0, to be taken again when it fails its CHECK. -/
def twoCommands : Frame := ⟨0x00#8, 0#8, (⟨0x0D#8, 1#8, [1#8]⟩ : Frame).wire ++ (⟨0x06#8, 2#8, [0#8, 0#8]⟩ : Frame).wire⟩

/-- The part after its rescan, with the choices given. -/
def afterTwo (c : List Nat) : State := after (.frameReceived twoCommands 0#16) { partClosedLane with choices := c }

/-- R182, R185, R187: both are taken at the rescan's event; the first's reply is being sent and the second's waits behind it. -/
theorem test_rescan_takes_two_commands :
    let t := afterTwo (List.replicate 8 0)
    t.conveyor = .halted ∧ (t.lane 0).state = .ready ∧ t.link.transmitter.map (·.body) = some [0x0D#8, 0#8] ∧
    t.link.replySlot.map (·.body) = some [0x06#8, 0#8] := by decide +kernel

/-- R188: of the reports of the two, the CONVEYOR report of the first or the LANE report of the second can stand first. -/
theorem test_reports_of_two_commands_in_either_order :
    (afterTwo (List.replicate 8 0)).link.queue.map Report.kind = [0x89#8, 0x87#8, 0x84#8] ∧
    (afterTwo [1, 3, 3, 3]).link.queue.map Report.kind = [0x89#8, 0x84#8, 0x87#8] := by decide +kernel

/-- The third contaminated scan of an ADMIT lane, at which the button settles pressed on an OPEN session too. -/
def afterScan (c : List Nat) : State :=
  let u := { laneIn .admitting with
    record := some (ContainerRecord.fresh 0 7), session := openSession, button := ⟨false, true⟩
    curtain := { Curtain.reset with phase := .waiting, stray := 2 } }
  after (.curtainScan 0 ⟨255#8, 255#8, 255#8, 255#8, 1#8, false, true⟩) { sending (withLane u) with choices := c }

/-- R188: with the curtain taken first, the fault's LANE report or the VOUCHER can stand first in the queue. -/
theorem test_reports_of_one_scan_in_either_order :
    ((afterScan (List.replicate 12 0)).lane 0).state = .fault ∧
    (afterScan (List.replicate 12 0)).link.queue.map Report.kind = [0x84#8, 0x83#8] ∧
    (afterScan [0, 1, 1, 1, 0, 0, 0, 0]).link.queue.map Report.kind = [0x83#8, 0x84#8] := by decide +kernel

/-- A query is OPEN at lane 0 and its CODE_QUERY stands in the queue between two reports. -/
def partAsked : State := { sending partQuery with
    link := { (sending partQuery).link with queue := [.ring .phantom 0, .codeQuery 0 7 ⟨13, 5⟩, .ring .phantom 0] } }

theorem ready_partAsked : partAsked.Ready := by decide +kernel

theorem test_witness_RestartReturnsEveryBlock_asked : ∃ (s : State), s.TakesCommands ∧ s.queriesQueued ≠ [] :=
  ⟨partAsked, ⟨ready_partAsked, rfl⟩, by decide +kernel⟩

theorem test_witness_RestartReturnsEveryBlock_coherent : ∃ (s : State), s.TakesCommands ∧ s.LanesCoherent ∧
    ¬ ((∃ l : Lane, (s.lane l).session.state ≠ .none ∨ (s.lane l).record ≠ none) ∨ s.pocket ≠ .empty ∨ ∃ p : Position,
      s.tokenAt p ≠ none) :=
  ⟨partBase, ⟨ready_partBase, rfl⟩, by decide +kernel, by decide +kernel⟩

/-- R100, R191, R199: at a RESTART with force the CODE_QUERY stays, before the LANE report of the change, or goes; the others go. -/
theorem test_restart_keeps_a_code_query_or_not :
    let t := after (.restart ⟨1#8, 1⟩ 1) { partAsked with choices := [1] }
    let u := after (.restart ⟨1#8, 1⟩ 1) { partAsked with choices := [0] }
    t.link.queue = [.codeQuery 0 7 ⟨13, 5⟩, .lane (t.laneReport 0)] ∧ u.link.queue = [.lane (u.laneReport 0)] ∧
    (t.lane 0).query = .idle := by decide +kernel

end Sys2Proof.Tests
end

/-! PROOFS. The Curtain Scanner and the Code Reader Port: the debounce and the runs (R28 to R33), the judging of a line (R42, R43), the
event of a reader character (R41, R44) and the event of a scan (R29 to R39). Both events change one lane: `settle_setLane` ends those that no
rule reads, `settle_reporting_apart` and its neighbours those that make reports. -/

namespace Sys2Proof.Machine.CurtainAndReader

/-! ### What a scan reads, the debounce and the runs (R28, R31, R33) -/

/-- R28: bit r of group k of a scan is the receiver that sees no light. -/
theorem scanBeams_getLsbD (x : Scan) (r : Nat) (hr : r < 8) :
    (scanBeams x).getLsbD r = !x.lit0.getLsbD r ∧ (scanBeams x).getLsbD (8 + r) = !x.lit1.getLsbD r ∧
    (scanBeams x).getLsbD (16 + r) = !x.lit2.getLsbD r ∧ (scanBeams x).getLsbD (24 + r) = !x.lit3.getLsbD r := by
  have h0 : r < 32 := by omega
  have h1 : ¬ 8 + r < 8 ∧ 8 + r < 32 := by omega
  have h2 : ¬ 16 + r < 8 ∧ ¬ 16 + r - 8 < 8 ∧ 16 + r - 8 - 8 = r ∧ 16 + r < 32 := by omega
  have h3 : ¬ 24 + r < 8 ∧ ¬ 24 + r - 8 < 8 ∧ ¬ 24 + r - 8 - 8 < 8 ∧ 24 + r - 8 - 8 - 8 = r ∧ 24 + r < 32 := by omega
  simp only [scanBeams, BitVec.getLsbD_not, BitVec.getLsbD_append]
  simp [hr, h0, h1, h2, h3]

/-- R31: a settled beam takes a disagreeing reading at the second scan in a row. -/
theorem debounce_settled (c : Curtain) (raw : BitVec 32) (i : Nat) :
    (c.debounce raw).settled.getLsbD i =
      if raw.getLsbD i ≠ c.settled.getLsbD i ∧ c.pending.getLsbD i = true then raw.getLsbD i else c.settled.getLsbD i := by
  simp only [Curtain.debounce, BitVec.getLsbD_xor, BitVec.getLsbD_and]
  cases raw.getLsbD i <;> cases c.settled.getLsbD i <;> cases c.pending.getLsbD i <;> rfl

/-- R31: a beam is pending after its first disagreeing reading. -/
theorem debounce_pending (c : Curtain) (raw : BitVec 32) (i : Nat) (hi : i < 32) :
    (c.debounce raw).pending.getLsbD i = true ↔ raw.getLsbD i ≠ c.settled.getLsbD i ∧ c.pending.getLsbD i = false := by
  simp only [Curtain.debounce, BitVec.getLsbD_xor, BitVec.getLsbD_and, BitVec.getLsbD_not, hi, decide_true, Bool.true_and]
  cases raw.getLsbD i <;> cases c.settled.getLsbD i <;> cases c.pending.getLsbD i <;> decide

/-- A run over the beams for which `p` holds: its two ends are of them, and no two beams side by side within it are both not. -/
structure IsRun (p : Nat → Prop) (r : Nat × Nat) : Prop where
  ordered : r.1 ≤ r.2
  low     : p r.1
  high    : p r.2
  dense   : ∀ i, r.1 ≤ i → i < r.2 → p i ∨ p (i + 1)

theorem isRun_single {p : Nat → Prop} {i : Nat} (h : p i) : IsRun p (i, i) := ⟨Nat.le_refl i, h, h, fun j h1 h2 => by omega⟩

/-- A beam at most two above the highest of a run continues it. -/
theorem isRun_extend {p : Nat → Prop} {lo hi i : Nat} (h : IsRun p (lo, hi)) (hi' : hi < i) (hg : i ≤ hi + 2) (hp : p i) :
    IsRun p (lo, i) := by
  obtain ⟨h1, h2, h3, h4⟩ := h
  dsimp only at *
  refine ⟨by dsimp only; omega, h2, hp, fun j hj1 hj2 => ?_⟩
  dsimp only at hj1 hj2
  rcases Nat.lt_trichotomy j hi with hj | rfl | hj
  · exact h4 j hj1 hj
  · exact Or.inl h3
  · have : j + 1 = i := by omega
    exact Or.inr (this ▸ hp)

/-- R33: from a run begun and the ascending blocked beams above it come runs. -/
theorem runsFrom_isRun {p : Nat → Prop} (rest : List Nat) (lo hi : Nat) (h : IsRun p (lo, hi)) (hs : (hi :: rest).Pairwise (· < ·))
    (hp : ∀ i ∈ rest, p i) : ∀ r ∈ runsFrom lo hi rest, IsRun p r := by
  induction rest generalizing lo hi with
  | nil => simpa [runsFrom] using h
  | cons i rest ih =>
    obtain ⟨hlt, hs'⟩ := List.pairwise_cons.1 hs
    have hpi := hp i List.mem_cons_self
    have hp' : ∀ j ∈ rest, p j := fun j hj => hp j (List.mem_cons_of_mem i hj)
    unfold runsFrom
    split
    · next hg => exact ih lo i (isRun_extend h (hlt i List.mem_cons_self) hg hpi) hs' hp'
    · intro r hr
      rcases List.mem_cons.1 hr with rfl | hr
      · exact h
      · exact ih i i (isRun_single hpi) hs' hp' r hr

/-- R33: the runs cover the run begun and every blocked beam above it. -/
theorem runsFrom_covers (rest : List Nat) (lo hi : Nat) (h : lo ≤ hi) (hs : (hi :: rest).Pairwise (· < ·)) (i : Nat)
    (hi' : (lo ≤ i ∧ i ≤ hi) ∨ i ∈ rest) : ∃ r ∈ runsFrom lo hi rest, r.1 ≤ i ∧ i ≤ r.2 := by
  induction rest generalizing lo hi with
  | nil => exact ⟨(lo, hi), by simp [runsFrom], by simpa using hi'⟩
  | cons j rest ih =>
    obtain ⟨hlt, hs'⟩ := List.pairwise_cons.1 hs
    have hj := hlt j List.mem_cons_self
    unfold runsFrom
    split
    · refine ih lo j (by omega) hs' ?_
      rcases hi' with hi' | hi'
      · exact Or.inl (by omega)
      · rcases List.mem_cons.1 hi' with rfl | hi'
        · exact Or.inl (by omega)
        · exact Or.inr hi'
    · rcases hi' with hi' | hi'
      · exact ⟨(lo, hi), List.mem_cons_self, hi'⟩
      · have : (j ≤ i ∧ i ≤ j) ∨ i ∈ rest := by
          rcases List.mem_cons.1 hi' with rfl | hi'
          · exact Or.inl (by omega)
          · exact Or.inr hi'
        obtain ⟨r, hr, hri⟩ := ih j j (Nat.le_refl j) hs' this
        exact ⟨r, List.mem_cons_of_mem _ hr, hri⟩

/-- No run begins below the run begun. -/
theorem runsFrom_above (rest : List Nat) (lo hi : Nat) (h : lo ≤ hi) (hs : (hi :: rest).Pairwise (· < ·)) :
    ∀ r ∈ runsFrom lo hi rest, lo ≤ r.1 := by
  induction rest generalizing lo hi with
  | nil => simp [runsFrom]
  | cons j rest ih =>
    obtain ⟨hlt, hs'⟩ := List.pairwise_cons.1 hs
    have hj := hlt j List.mem_cons_self
    unfold runsFrom
    split
    · exact ih lo j (by omega) hs'
    · intro r hr
      rcases List.mem_cons.1 hr with rfl | hr
      · exact Nat.le_refl _
      · have := ih j j (Nat.le_refl j) hs' r hr
        omega

/-- R33: the runs stand at least two clear beams apart. -/
theorem runsFrom_apart (rest : List Nat) (lo hi : Nat) (hs : (hi :: rest).Pairwise (· < ·)) :
    (runsFrom lo hi rest).Pairwise (fun r r' => r.2 + 2 < r'.1) := by
  induction rest generalizing lo hi with
  | nil => simp [runsFrom]
  | cons j rest ih =>
    obtain ⟨-, hs'⟩ := List.pairwise_cons.1 hs
    unfold runsFrom
    split
    · exact ih lo j hs'
    · next hg =>
      refine List.pairwise_cons.2 ⟨fun r hr => ?_, ih j j hs'⟩
      have := runsFrom_above rest j j (Nat.le_refl j) hs' r hr
      dsimp only
      omega

theorem mem_blockedBeams (b : BitVec 32) (i : Nat) : i ∈ blockedBeams b ↔ b.getLsbD i = true := by
  simp only [blockedBeams, List.mem_filter, List.mem_range, and_iff_right_iff_imp]
  exact BitVec.lt_of_getLsbD

theorem blockedBeams_ascending (b : BitVec 32) : (blockedBeams b).Pairwise (· < ·) := List.pairwise_lt_range.filter _

theorem runsOf_covers (b : BitVec 32) (i : Nat) (h : b.getLsbD i = true) : ∃ r ∈ runsOf b, r.1 ≤ i ∧ i ≤ r.2 := by
  have hs := blockedBeams_ascending b
  have hm := (mem_blockedBeams b i).2 h
  unfold runsOf
  split
  · next e => simp [e] at hm
  · next j rest e =>
    rw [e] at hs hm
    refine runsFrom_covers rest j j (Nat.le_refl j) hs i ?_
    rcases List.mem_cons.1 hm with rfl | hm
    · exact Or.inl (by omega)
    · exact Or.inr hm

theorem runsOf_isRun (b : BitVec 32) : ∀ r ∈ runsOf b, IsRun (fun i => b.getLsbD i = true) r := by
  have hs := blockedBeams_ascending b
  have hp : ∀ i ∈ blockedBeams b, b.getLsbD i = true := fun i => (mem_blockedBeams b i).1
  unfold runsOf
  split
  · simp
  · next j rest e =>
    rw [e] at hs hp
    exact runsFrom_isRun rest j j (isRun_single (hp j List.mem_cons_self)) hs (fun i hi => hp i (List.mem_cons_of_mem j hi))

theorem runsOf_apart (b : BitVec 32) : (runsOf b).Pairwise (fun r r' => r.2 + 2 < r'.1) := by
  have hs := blockedBeams_ascending b
  unfold runsOf
  split
  · exact List.Pairwise.nil
  · next j rest e => exact runsFrom_apart rest j j (e ▸ hs)

/-- Settles O14: beam by beam for the scan and the debounce, by induction on the ascending blocked beams for the runs. -/
theorem beamsSettleAndGroupIntoRuns : Obligations.BeamsSettleAndGroupIntoRuns := by
  refine ⟨scanBeams_getLsbD, fun c raw i hi => ⟨debounce_settled c raw i, debounce_pending c raw i hi⟩, fun b =>
    ⟨runsOf_covers b, fun r hr => ?_, runsOf_apart b⟩⟩
  obtain ⟨hle, hlo, hhi, hdense⟩ := runsOf_isRun b r hr
  have hlt : r.2 < 32 := BitVec.lt_of_getLsbD hhi
  exact ⟨hle, hlt, hlo, hhi, by unfold runExtent; omega, by unfold runExtent; omega, hdense⟩

/-! ### The judging of a line (R42, R43) -/

theorem digitOf_eq_none {c : Byte} (h : c.toNat < 0x30 ∨ 0x39 < c.toNat) : digitOf c = none := if_neg (by omega)

theorem digitOf_ofNat {d : Nat} (h : d ≤ 9) : digitOf (BitVec.ofNat 8 (0x30 + d)) = some d := by
  have : (BitVec.ofNat 8 (0x30 + d)).toNat = 0x30 + d := by rw [BitVec.toNat_ofNat]; omega
  rw [digitOf, this, if_pos (by omega)]
  congr 1
  omega

theorem digitsOf_eq_none {line : List Byte} {c : Byte} (hm : c ∈ line) (h : digitOf c = none) : digitsOf line = none := by
  induction line with
  | nil => cases hm
  | cons b bs ih =>
    rcases List.mem_cons.1 hm with rfl | hm
    · simp [digitsOf, h]
    · rw [digitsOf, ih hm]
      cases digitOf b <;> rfl

theorem digitsOf_spelling (ds : List Nat) (h : ∀ d ∈ ds, d ≤ 9) :
    digitsOf (ds.map (fun d => BitVec.ofNat 8 (0x30 + d))) = some ds := by
  induction ds with
  | nil => rfl
  | cons d ds ih =>
    rw [List.map_cons, digitsOf, digitOf_ofNat (h d List.mem_cons_self), ih (fun e he => h e (List.mem_cons_of_mem d he))]

/-- R43's weights: digits at even places of the list weigh 3, those at odd places 1. -/
theorem weightedSum_eq_zipIdx (ds : List Nat) (n : Nat) (hn : n % 2 = 0) :
    weightedSum ds = ((ds.zipIdx n).map (fun x => if x.2 % 2 = 0 then 3 * x.1 else x.1)).sum := by
  induction ds using weightedSum.induct generalizing n with
  | case1 => rfl
  | case2 d => simp [weightedSum, hn]
  | case3 d e ds ih =>
    have h1 : (n + 1) % 2 ≠ 0 := by omega
    simp only [weightedSum, List.zipIdx_cons, List.map_cons, List.sum_cons, hn, h1, if_true, if_false]
    rw [ih (n + 1 + 1) (by omega)]
    omega

/-- Digits that follow the number n spell one below (n + 1) times their power of ten. -/
theorem spelled_from_lt (ds : List Nat) (n : Nat) (h : ∀ d ∈ ds, d ≤ 9) :
    ds.foldl (fun n d => 10 * n + d) n < (n + 1) * 10 ^ ds.length := by
  induction ds generalizing n with
  | nil => simp
  | cons d ds ih =>
    have hd := h d List.mem_cons_self
    calc (d :: ds).foldl (fun n d => 10 * n + d) n
        = ds.foldl (fun n d => 10 * n + d) (10 * n + d) := rfl
      _ < (10 * n + d + 1) * 10 ^ ds.length := ih _ (fun e he => h e (List.mem_cons_of_mem d he))
      _ ≤ ((n + 1) * 10) * 10 ^ ds.length := Nat.mul_le_mul_right _ (by omega)
      _ = (n + 1) * 10 ^ (d :: ds).length := by rw [List.length_cons, pow_succ]; ring

theorem judgeLine_bad_length (line : List Byte) (h8 : line.length ≠ 8) (h13 : line.length ≠ 13) : judgeLine false line = .malformed := by
  simp [judgeLine, h8, h13]

theorem judgeLine_bad_character (line : List Byte) (h : digitsOf line = none) : judgeLine false line = .malformed := by
  simp [judgeLine, h]

theorem judgeLine_digits (line : List Byte) (ds : List Nat) (hl : line.length = 8 ∨ line.length = 13) (h : digitsOf line = some ds) :
    judgeLine false line = judgeDigits ds := by
  simp [judgeLine, hl, h]

/-- Settles O15: by induction on the digits, with R43's weights taken two digits at a time. -/
theorem linesAreJudgedByTheirCheckDigit : Obligations.LinesAreJudgedByTheirCheckDigit := by
  refine ⟨fun _ => rfl, judgeLine_bad_length, fun line c hm hc => ?_, fun ds hds hlen => ⟨?_, ?_⟩⟩
  · exact judgeLine_bad_character line (digitsOf_eq_none hm (digitOf_eq_none hc))
  · rw [judgeLine_digits _ ds (by simpa using hlen) (digitsOf_spelling ds hds), judgeDigits, checkDigit,
      weightedSum_eq_zipIdx _ 0 rfl]
    rfl
  · simpa using spelled_from_lt ds 0 hds

/-! ### Events that change one lane -/

@[simp] theorem setLane_setLane (s : State) (l : Lane) (u v : LaneUnit) : (s.setLane l u).setLane l v = s.setLane l v := by
  simp [State.setLane]

@[simp] theorem setLane_lane_same (s : State) (l : Lane) : s.setLane l (s.lane l) = s := by
  simp [State.setLane, State.lane]

theorem syncShutters_setLane (s : State) (l : Lane) (u : LaneUnit) :
    (s.setLane l u).syncShutters = s.syncShutters.setLane l u.syncShutter := by
  simp [State.syncShutters, State.setLane, Vector.map_set]

/-- What the rules of an event's end and the shutter read of a lane. -/
def watched (u : LaneUnit) : LaneState × HoldSet × Bool × Bool × Bool × Bool × Session × Bool × Bool × Bool :=
  (u.state, u.holds, u.closePending, u.calRunning, u.record.isNone, u.holdsAccept, u.session, u.mouth.settled, u.mouthOpen, u.shutter)

theorem due_of_watched {u v : LaneUnit} (h : watched u = watched v) (held : Bool) : u.due held = v.due held := by
  simp only [watched, Prod.mk.injEq] at h
  obtain ⟨hstate, hholds, hpend, hcal, hrec, hacc, hsess, hmouth, -, -⟩ := h
  simp only [LaneUnit.due, LaneUnit.isOpen, LaneUnit.wakesUnheld, LaneUnit.voucherDue, LaneUnit.closes, LaneUnit.admits, hstate, hholds,
    hpend, hcal, hrec, hacc, hsess, hmouth]

theorem syncShutter_of_watched {u v : LaneUnit} (h : watched u = watched v) (hv : v.syncShutter = v) : u.syncShutter = u := by
  simp only [watched, Prod.mk.injEq] at h
  obtain ⟨hstate, hholds, -, hcal, -, -, -, hmouth, hopen, hshut⟩ := h
  have e : u.syncShutter.shutter = v.syncShutter.shutter := by
    simp only [LaneUnit.syncShutter, LaneUnit.shutterCommand, hstate, hholds, hcal, hmouth, hopen, hshut]
  rw [hv, ← hshut] at e
  exact congrArg (fun b => { u with shutter := b }) e

/-- A change of one lane that no rule reads ends its event as it stands. -/
theorem settle_setLane {s : State} (hs : s.Ready) {l : Lane} {u : LaneUnit} (h : watched u = watched (s.lane l)) :
    settle (s.setLane l u) = s.setLane l u := by
  obtain ⟨-, hrest, hshut⟩ := hs
  obtain ⟨hquiet, hout, htake, hbegin⟩ := (rest_iff s).1 hrest
  have hlane : (s.lane l).syncShutter = s.lane l := by rw [← syncShutters_lane, hshut]
  refine settle_of_rest _ ((rest_iff _).2 ⟨quiet_setLane hquiet l u ?_, hout, htake, hbegin⟩) ?_
  · rw [due_of_watched h]
    exact hquiet.lanes l
  · rw [syncShutters_setLane, hshut, syncShutter_of_watched h hlane]

theorem event_setLane {s : State} (hs : s.Ready) {f : State → State} {l : Lane} {u : LaneUnit} (hf : f s = s.setLane l u)
    (h : watched u = watched (s.lane l)) : s.event f = .next (s.setLane l u) := by
  simp [State.event, hs.1, hf, settle_setLane hs h]

theorem event_idle {s : State} (hs : s.Ready) {f : State → State} (hf : f s = s) : s.event f = .next s := by
  simp [State.event, hs.1, hf, settle_of_rest s hs.2.1 hs.2.2]

/-! ### The reader port (R41, R44) -/

theorem post_verdict (r : ContainerRecord) (x : LineResult) : (r.post x).verdict = r.verdict := by
  unfold ContainerRecord.post
  repeat' split
  all_goals rfl

theorem post_malformed (u : LaneUnit) : u.post .malformed = u := by
  unfold LaneUnit.post
  split
  · show { u with record := u.record.map id } = u
    rw [Option.map_id_fun, id]
  · rfl

theorem post_zone_closed (u : LaneUnit) (h : u.zoneOpen = false) (x : LineResult) : u.post x = u := if_neg (by simp [h])

theorem post_zone_open (u : LaneUnit) {r : ContainerRecord} (hr : u.record = some r) (hv : r.verdict = none) (x : LineResult) :
    u.post x = { u with record := some (r.post x) } := by
  simp [LaneUnit.post, LaneUnit.zoneOpen, hr, hv]

/-- R44: of a good code, the first is stored, the same changes nothing, and another sets conflict. -/
theorem post_good (r : ContainerRecord) (k : Code) :
    r.post (.good k) =
      { r with code := some (r.code.getD k), conflict := r.conflict || decide (r.code ≠ none ∧ r.code ≠ some k) } := by
  obtain ⟨lane, seq, diameter, length, code, badReads, conflict, weighing, gain, verdict, cls, material, unitValue, destination⟩ := r
  cases code with
  | none => simp [ContainerRecord.post]
  | some k' =>
    by_cases h : k' = k
    · simp [ContainerRecord.post, h]
    · simp [ContainerRecord.post, h]

/-- A posting leaves alone whether a record is held and its verdict, so no rule reads it. -/
theorem watched_post (u : LaneUnit) (x : LineResult) : watched (u.post x) = watched u := by
  unfold LaneUnit.post
  split
  · have hv : (fun r : ContainerRecord => (r.post x).verdict) = (·.verdict) := funext fun r => post_verdict r x
    simp [watched, LaneUnit.holdsAccept, LaneUnit.verdict, Option.bind_map, hv]
  · rfl

section
variable {s : State} (hs : s.Ready) {l : Lane} {c : Byte} {e : Bool} {p : ReaderPort} {x : LineResult}
include hs

/-- A character changes its lane's port and posts the result of the line it finishes. -/
theorem exec_readerCharacter (h : (s.lane l).reader.take c e = (p, x)) {u : LaneUnit}
    (hu : LaneUnit.post { s.lane l with reader := p } x = u) : exec (.readerCharacter l c e) s = .next (s.setLane l u) := by
  subst hu
  refine event_setLane hs (f := fun s => s.readerChar l c e) ?_ (watched_post _ x)
  simp only [State.readerChar, State.modLane, h]

/-- A character that finishes no well-formed line changes its lane's port alone. -/
theorem exec_readerCharacter_port (h : (s.lane l).reader.take c e = (p, .malformed)) :
    exec (.readerCharacter l c e) s = .next (s.setLane l { s.lane l with reader := p }) :=
  exec_readerCharacter hs h (post_malformed _)

/-- With the zone closed the result of the finished line is dropped. -/
theorem exec_readerCharacter_unposted (h : (s.lane l).reader.take c e = (p, x)) (hz : (s.lane l).zoneOpen = false) :
    exec (.readerCharacter l c e) s = .next (s.setLane l { s.lane l with reader := p }) :=
  exec_readerCharacter hs h (post_zone_closed { s.lane l with reader := p } hz x)

/-- In the open zone the record takes the result of the finished line. -/
theorem exec_readerCharacter_posted (h : (s.lane l).reader.take c e = (p, x)) {r : ContainerRecord}
    (hr : (s.lane l).record = some r) (hv : r.verdict = none) :
    exec (.readerCharacter l c e) s = .next (s.setLane l { s.lane l with reader := p, record := some (r.post x) }) :=
  exec_readerCharacter hs h (post_zone_open { s.lane l with reader := p } hr hv x)

/-- A character that leaves the port as it was changes nothing. -/
theorem exec_readerCharacter_ignored (h : (s.lane l).reader.take c e = ((s.lane l).reader, .malformed)) :
    exec (.readerCharacter l c e) s = .next s :=
  (exec_readerCharacter_port hs h).trans (congrArg Host.Outcome.next (setLane_lane_same s l))

end

theorem take_skipping {p : ReaderPort} (hp : p.skipping = true) {c : Byte} {e : Bool} (h : c ≠ 0x0D#8 ∨ e = true) :
    p.take c e = (p, .malformed) := by
  have : ¬ (c = 0x0D#8 ∧ e = false) := by
    rintro ⟨hc, he⟩
    rcases h with h | h
    · exact h hc
    · rw [he] at h; cases h
  simp [ReaderPort.take, hp, this]

theorem take_skipping_ends {p : ReaderPort} (hp : p.skipping = true) :
    p.take 0x0D#8 false = ({ p with skipping := false }, .malformed) := by simp [ReaderPort.take, hp]

section
variable {p : ReaderPort} (hp : p.skipping = false) {c : Byte}
include hp

theorem take_framing_error : p.take c true = ({ p with badLine := true }, .malformed) := by simp [ReaderPort.take, hp]

theorem take_lf : p.take 0x0A#8 false = (p, .malformed) := by simp [ReaderPort.take, hp]

theorem take_cr : p.take 0x0D#8 false = (ReaderPort.reset, judgeLine p.badLine p.buffer) := by simp [ReaderPort.take, hp]

theorem take_stored (hcr : c ≠ 0x0D#8) (hlf : c ≠ 0x0A#8) (h : p.buffer.length < 16) :
    p.take c false = ({ p with buffer := p.buffer ++ [c] }, .malformed) := by
  simp [ReaderPort.take, hp, hcr, hlf, Config.readerChars, h]

theorem take_overflow (hcr : c ≠ 0x0D#8) (hlf : c ≠ 0x0A#8) (h : 16 ≤ p.buffer.length) :
    p.take c false = (⟨[], false, true⟩, .malformed) := by
  simp [ReaderPort.take, hp, hcr, hlf, Config.readerChars, Nat.not_lt.2 h]

end

/-- Settles O45: what the port does with the character, and what the finished line's result does to the record. -/
theorem readerCharacterBuildsAndPostsALine : Obligations.ReaderCharacterBuildsAndPostsALine := by
  refine ⟨?skips, ?skipEnds, ?framing, ?lf, ?stored, ?overflow, ?unposted, ?good, ?badRead⟩
  case skips => exact fun s l c e hs hk h => exec_readerCharacter_ignored hs (take_skipping hk h)
  case skipEnds => exact fun s l hs hk => exec_readerCharacter_port hs (take_skipping_ends hk)
  case framing => exact fun s l c hs hk => exec_readerCharacter_port hs (take_framing_error hk)
  case lf => exact fun s l hs hk => exec_readerCharacter_ignored hs (take_lf hk)
  case stored => exact fun s l c hs hk hcr hlf h => exec_readerCharacter_port hs (take_stored hk hcr hlf h)
  case overflow => exact fun s l c hs hk hcr hlf h => exec_readerCharacter_port hs (take_overflow hk hcr hlf h)
  case unposted =>
    intro s l hs hk h
    rcases h with h | h
    · exact exec_readerCharacter_unposted hs (take_cr hk) h
    · exact exec_readerCharacter_port hs ((take_cr hk).trans (by rw [h]; rfl))
  case good =>
    intro s l r k hs hk hr hv h
    rw [exec_readerCharacter_posted hs (take_cr hk) hr hv, h, post_good]
    rfl
  case badRead =>
    intro s l r hs hk hr hv h
    rw [exec_readerCharacter_posted hs (take_cr hk) hr hv, h]
    rfl

/-! ### Events that change one lane and make reports -/

/-- A state with one lane put in place, reports made, and held-out reports withdrawn or not. -/
def reporting (s : State) (l : Lane) (u : LaneUnit) (made : List Made) (held : List Report) : State :=
  { s.setLane l u with outbox := made, link := { s.link with heldOut := held } }

@[simp] theorem reporting_lane (s : State) (l : Lane) (u : LaneUnit) (made : List Made) (held : List Report) :
    (reporting s l u made held).lane l = u := State.setLane_lane_self s l u

@[simp] theorem reporting_setLane (s : State) (l : Lane) (u v : LaneUnit) (made : List Made) (held : List Report) :
    (reporting s l u made held).setLane l v = reporting s l v made held := by
  simp [reporting, State.setLane]

theorem setLane_eq_reporting (s : State) (l : Lane) (u : LaneUnit) (h : s.outbox = []) :
    s.setLane l u = reporting s l u [] s.link.heldOut := by
  simp [reporting, State.setLane, ← h]

@[simp] theorem reporting_modLane (s : State) (l : Lane) (u : LaneUnit) (f : LaneUnit → LaneUnit) (made : List Made)
    (held : List Report) : (reporting s l u made held).modLane l f = reporting s l (f u) made held := by
  simp [State.modLane]

@[simp] theorem reporting_makeWhole (s : State) (l : Lane) (u : LaneUnit) (made : List Made) (held : List Report) (r : Report) :
    (reporting s l u made held).makeWhole r = reporting s l u (made ++ [.whole r]) held := rfl

/-- R5: a change of the lane's state makes its LANE report. -/
theorem reporting_setLaneState (s : State) (l : Lane) (u : LaneUnit) (made : List Made) (held : List Report) {t : LaneState}
    (h : u.state ≠ t) (hm : .lane l ∉ made) :
    (reporting s l u made held).setLaneState l t = reporting s l { u with state := t } (made ++ [.lane l]) held := by
  have hm' : .lane l ∉ (reporting s l { u with state := t } made held).outbox := hm
  rw [State.setLaneState, if_neg (by simpa using h), reporting_modLane, State.noteLane, State.make, if_neg hm']
  rfl

/-- The change of one lane leaves no rule due, and its reports fit the queue and have no waiting owner. -/
structure Reportable (s : State) (u : LaneUnit) (made : List Made) (held : List Report) : Prop where
  ready : s.Ready
  lane  : u.due s.conveyorHeld = false
  held  : s.link.heldOut = [] → held = []
  plain : ∀ m ∈ made, m.plain = true
  few   : made.length ≤ 32

section
variable {s : State} {l : Lane} {u : LaneUnit} {made : List Made} {held : List Report} (h : Reportable s u made held)
include h

theorem reporting_reporting : (reporting s l u made held).Reporting := by
  obtain ⟨hs, hu, hheld, hplain, hfew⟩ := h
  obtain ⟨hquiet, -, -, hbegin⟩ := (rest_iff s).1 hs.2.1
  refine ⟨?_, hplain, hfew, fun ht => ((begin_none_iff _).1 hbegin ht).2, ?_⟩
  · exact quiet_congr (quiet_setLane hquiet l u hu) rfl rfl rfl rfl rfl rfl rfl rfl (fun hr => hheld (hquiet.held hr))
  · exact noTake_of_taking (noTake_of_rest s hs.2.1) rfl

theorem settle_reporting_apart : (settle (reporting s l u made held)).apart = (s.setLane l u.syncShutter).apart := by
  obtain ⟨-, hshut⟩ := h.ready.2
  calc (settle (reporting s l u made held)).apart
      = (reporting s l u made held).syncShutters.apart := settle_apart _ (reporting_reporting h)
    _ = ((s.setLane l u).syncShutters).apart := rfl
    _ = (s.setLane l u.syncShutter).apart := by rw [syncShutters_setLane, hshut]

/-- The LANE report made at the event is told, with the snapshot of the event's end (R5). -/
theorem settle_reporting_told_lane (hm : .lane l ∈ made)
    (hd : made.Pairwise (fun a b => ∀ x, ((reporting s l u made held).reportOf b).treatment = .coalesced x →
      ((reporting s l u made held).reportOf a).isOf x = false)) :
    (settle (reporting s l u made held)).Told (.lane ((settle (reporting s l u made held)).laneReport l)) := by
  have e : (settle (reporting s l u made held)).laneReport l = (reporting s l u made held).laneReport l := by
    have hl : (settle (reporting s l u made held)).lane l = u.syncShutter := by
      have := congrArg (fun t : State => t.lane l) (settle_reporting_apart (l := l) h)
      exact this.trans (State.setLane_lane_self s l _)
    simp only [State.laneReport, hl, reporting_lane, LaneUnit.syncShutter]
  rw [e]
  rcases settle_told _ (reporting_reporting h) hd _ hm with ht | ⟨ht, -⟩
  · exact ht
  · cases ht

end

/-! ### What becomes of a droppable report -/

/-- With room in the queue an offered report is queued, or takes the place of one of its subject. -/
theorem offer_has_of_room (k : LinkPort) (r : Report) (h : k.hasRoom = true) : (k.offer r).has r := by
  rcases offer_has k r with hh | ⟨ht, -⟩
  · exact hh
  · left
    simp [LinkPort.offer, ht, h, LinkPort.enqueue]

theorem offers_keep (g : Made → Report) (made : List Made) (k : LinkPort) (q : Report) (h : k.has q)
    (hd : ∀ m ∈ made, ∀ x, (g m).treatment = .coalesced x → q.isOf x = false) : (made.foldl (fun k m => k.offer (g m)) k).has q := by
  induction made generalizing k with
  | nil => exact h
  | cons m made ih =>
    exact ih _ (offer_keeps k (g m) q h (hd m List.mem_cons_self)) (fun b hb => hd b (List.mem_cons_of_mem m hb))

/-- A droppable report among reports that all find room is queued: no other report takes its place (R188, R190). -/
theorem offers_has_of_room (g : Made → Report) (made : List Made) (k : LinkPort) (hh : k.heldOut = [])
    (hn : k.queue.length + made.length ≤ 32) (m : Made) (hm : m ∈ made) (ht : (g m).treatment = .droppable) :
    (made.foldl (fun k m => k.offer (g m)) k).has (g m) := by
  induction made generalizing k with
  | nil => cases hm
  | cons a made ih =>
    rw [List.length_cons] at hn
    have hroom : k.hasRoom = true := decide_eq_true (show k.queue.length < 32 by omega)
    rcases List.mem_cons.1 hm with rfl | hm
    · exact offers_keep g made _ _ (offer_has_of_room k (g m) hroom) (fun _ _ x _ => by simp [Report.isOf, ht])
    · obtain ⟨-, hheld, hlen⟩ := offer_room k (g a) (fun _ => hh)
      exact ih (k.offer (g a)) (hheld hroom) (by omega) hm

/-- A report queued or held out when the reports have been offered is told: the frame begun is the oldest report's, or a reply's. -/
theorem settle_told_of_offered {s : State} (h : s.Reporting) {r : Report} (hr : s.offered.has r) : (settle s).Told r := by
  rw [settle_reports s h]
  show r ∈ s.linkAfter.queue ∨ r ∈ s.linkAfter.heldOut ∨ s.linkAfter.transmitter = some (r.frame false) ∨
    s.linkAfter.transmitter = some (r.frame true)
  have told : ∀ k : LinkPort, k.queue = s.offered.queue → k.heldOut = s.offered.heldOut →
      r ∈ k.queue ∨ r ∈ k.heldOut ∨ k.transmitter = some (r.frame false) ∨ k.transmitter = some (r.frame true) := by
    intro k hq hh
    rw [hq, hh]
    exact hr.elim Or.inl (fun hr => Or.inr (Or.inl hr))
  unfold State.linkAfter LinkPort.begin?
  split
  · exact told _ rfl rfl
  · exact told _ rfl rfl
  · next q rest _ _ hq =>
    rcases hr with hr | hr
    · rw [hq] at hr
      rcases List.mem_cons.1 hr with rfl | hr
      · right; right
        cases s.offered.lost
        · exact Or.inl rfl
        · exact Or.inr rfl
      · exact Or.inl hr
    · exact Or.inr (Or.inl hr)
  · exact told _ rfl rfl

/-- A droppable report made at an event is told, or lost with LOST set (R190). -/
theorem settle_toldOrLost (s : State) (h : s.Reporting)
    (hd : s.outbox.Pairwise (fun a b => ∀ x, (s.reportOf b).treatment = .coalesced x → (s.reportOf a).isOf x = false))
    (m : Made) (hm : m ∈ s.outbox) (ht : (s.reportOf m).treatment = .droppable) : (settle s).ToldOrLost (s.reportOf m) := by
  cases htx : s.link.transmitter with
  | none =>
    have hq := h.idle htx
    have hperm := arranged_perm s s.outbox
    refine Or.inl (settle_told_of_offered h (offers_has_of_room s.reportOf _ s.link (h.quiet.held ?_) ?_ m (hperm.mem_iff.2 hm) ht))
    · simp [LinkPort.hasRoom, hq, Config.queueReports]
    · rw [hq, hperm.length_eq, List.length_nil, Nat.zero_add]
      exact h.few
  | some f =>
    rcases settle_told s h hd m hm with ht | ⟨-, hlost⟩
    · exact Or.inl ht
    · have hno : s.offered.begin? = none := by
        have := (offers_slots s.reportOf (s.arranged s.outbox).1 s.link).2.trans htx
        exact (begin_none_iff _).2 (fun hn => by cases hn.symm.trans this)
      right
      rw [settle_reports s h]
      show s.linkAfter.lost = true
      rw [State.linkAfter, hno]
      exact hlost

/-! ### The lines read at a scan (R8) -/

/-- The lane after a scan at which neither the mouth beam nor the button settles. -/
def withReadings (x : Scan) (u : LaneUnit) : LaneUnit :=
  { u with
    mouth := ⟨u.mouth.settled, x.mouth != u.mouth.settled⟩
    button := ⟨u.button.settled, x.button != u.button.settled⟩ }

theorem read_of_settled_same {d : Debounced} {v : Bool} (h : (d.read v).settled = d.settled) : d.read v = ⟨d.settled, v != d.settled⟩ := by
  obtain ⟨settled, pending⟩ := d
  cases settled <;> cases pending <;> cases v <;> simp_all [Debounced.read]

theorem scanSettles_eq_false {u : LaneUnit} {x : Scan} (h : u.scanSettles x = false) :
    u.mouth.read x.mouth = ⟨u.mouth.settled, x.mouth != u.mouth.settled⟩ ∧
    u.button.read x.button = ⟨u.button.settled, x.button != u.button.settled⟩ := by
  simp only [LaneUnit.scanSettles, Bool.or_eq_false_iff, bne_eq_false_iff_eq] at h
  exact ⟨read_of_settled_same h.1, read_of_settled_same h.2⟩

theorem readLines {s : State} {l : Lane} {x : Scan} (ho : (s.lane l).isOpen = true) (hx : (s.lane l).scanSettles x = false) :
    State.readButton x.button l (State.readMouth x.mouth l s) = s.setLane l (withReadings x (s.lane l)) := by
  obtain ⟨hmouth, hbutton⟩ := scanSettles_eq_false hx
  have hm : State.readMouth x.mouth l s =
      s.setLane l { s.lane l with mouth := ⟨(s.lane l).mouth.settled, x.mouth != (s.lane l).mouth.settled⟩ } := by
    simp [State.readMouth, ho, hmouth, State.modLane]
  have ho' : LaneUnit.isOpen { s.lane l with mouth := ⟨(s.lane l).mouth.settled, x.mouth != (s.lane l).mouth.settled⟩ } = true := ho
  rw [hm]
  simp [State.readButton, ho', hbutton, State.modLane, withReadings]

theorem isOpen_of_not_closed {u : LaneUnit} (h : u.state ≠ .closed) : u.isOpen = true := by
  unfold LaneUnit.isOpen LaneState.isOpen
  split
  · contradiction
  · rfl

/-- Where no line settles, the curtain's part of a scan is followed by the readings of the lines. -/
theorem scanEvent_eq {s t : State} {l : Lane} {x : Scan} (hx : (s.lane l).scanSettles x = false) (hc : State.scanCurtain x l s = t)
    (ho : (t.lane l).state ≠ .closed) (hm : (t.lane l).mouth = (s.lane l).mouth) (hb : (t.lane l).button = (s.lane l).button) :
    State.scanEvent x l s = t.setLane l (withReadings x (t.lane l)) := by
  have hx' : (t.lane l).scanSettles x = false := by rw [LaneUnit.scanSettles, hm, hb]; exact hx
  rw [State.scanEvent, if_neg (by simp [hx]), ← readLines (isOpen_of_not_closed ho) hx', ← hc]
  rfl

/-- The event of a scan that only changes its lane, and nothing that a rule reads. -/
theorem exec_curtainScan_quiet {s : State} (hs : s.Ready) {l : Lane} {x : Scan} {u : LaneUnit} (ho : (s.lane l).state ≠ .closed)
    (hx : (s.lane l).scanSettles x = false) (hc : State.scanCurtain x l s = s.setLane l u) (hm : u.mouth = (s.lane l).mouth)
    (hb : u.button = (s.lane l).button) (hw : watched u = watched (s.lane l)) :
    exec (.curtainScan l x) s = .next (s.setLane l (withReadings x u)) := by
  have hstate : u.state = (s.lane l).state := congrArg Prod.fst hw
  refine event_setLane hs (f := State.scanEvent x l) ?_ hw
  have := scanEvent_eq (t := s.setLane l u) hx hc (by simpa [hstate] using ho) (by simpa using hm) (by simpa using hb)
  simpa using this

/-! ### Clean scans (R31 to R39) -/

/-- The lane with its curtain in a new state. -/
def withCurtain (u : LaneUnit) (c : Curtain) : LaneUnit := { u with curtain := c }

/-- The curtain after a clean scan's debounce, its stray-light count at 0. -/
def cleaned (c : Curtain) (raw : BitVec 32) : Curtain := { c.debounce raw with stray := 0 }

theorem scanCurtain_clean {s : State} {l : Lane} {x : Scan} (ho : (s.lane l).state ≠ .closed) (hd : x.dark = 0#8) :
    State.scanCurtain x l s = s.cleanScan l (scanBeams x) := by
  simp [State.scanCurtain, isOpen_of_not_closed ho, scanContaminated, hd]

theorem runsOf_zero : runsOf 0 = [] := by decide

section
variable {s : State} {l : Lane} {raw : BitVec 32}

/-- Outside a profile, and in WAITING and STOPPING with every beam clear, a clean scan is its debounce alone. -/
theorem cleanScan_idle
    (h : (s.lane l).curtain.phase = .none ∨ (s.lane l).curtain.phase = .ended ∨
      (((s.lane l).curtain.phase = .waiting ∨ (s.lane l).curtain.phase = .stopping) ∧
        ((s.lane l).curtain.debounce raw).settled = 0)) :
    s.cleanScan l raw = s.setLane l (withCurtain (s.lane l) (cleaned (s.lane l).curtain raw)) := by
  have hphase : ((s.lane l).curtain.debounce raw).phase = (s.lane l).curtain.phase := rfl
  rcases h with h | h | ⟨h | h, hc⟩
  all_goals simp_all [State.cleanScan, State.modLane, cleaned, withCurtain]

theorem cleanScan_passing (h : (s.lane l).curtain.phase = .passing) :
    s.cleanScan l raw = (s.setLane l (withCurtain (s.lane l) (cleaned (s.lane l).curtain raw))).scanPassing l := by
  have hphase : ((s.lane l).curtain.debounce raw).phase = (s.lane l).curtain.phase := rfl
  simp [State.cleanScan, State.modLane, cleaned, withCurtain, hphase, h]

/-- R35: the first blocked scan ends WAITING. -/
theorem cleanScan_first (h : (s.lane l).curtain.phase = .waiting) (hb : ¬ ((s.lane l).curtain.debounce raw).settled = 0#32) :
    s.cleanScan l raw = (s.setLane l
      (withCurtain (s.lane l) { cleaned (s.lane l).curtain raw with phase := .passing, pulses := 0 })).scanPassing l := by
  have hphase : ((s.lane l).curtain.debounce raw).phase = (s.lane l).curtain.phase := rfl
  simp [State.cleanScan, State.modLane, cleaned, withCurtain, hphase, h, hb]

/-- R39: a blocked scan in STOPPING is DOUBLE. -/
theorem cleanScan_stopping (h : (s.lane l).curtain.phase = .stopping)
    (hb : ¬ ((s.lane l).curtain.debounce raw).settled = 0#32) :
    s.cleanScan l raw = (s.setLane l (withCurtain (s.lane l) (cleaned (s.lane l).curtain raw))).profileReject l .double := by
  have hphase : ((s.lane l).curtain.debounce raw).phase = (s.lane l).curtain.phase := rfl
  simp [State.cleanScan, State.modLane, cleaned, withCurtain, hphase, h, hb]

end

section
variable (s : State) (l : Lane) (u : LaneUnit) (c : Curtain)

/-- R36: a single run raises the largest extent. -/
theorem scanPassing_single {lo hi : Nat} (h : runsOf c.settled = [(lo, hi)]) :
    (s.setLane l (withCurtain u c)).scanPassing l =
      s.setLane l (withCurtain u { c with extent := max c.extent (hi - lo + 1) }) := by
  simp [State.scanPassing, withCurtain, h, State.modLane, runExtent]

/-- R36, R37: two runs are DOUBLE. -/
theorem scanPassing_double (h : 2 ≤ (runsOf c.settled).length) :
    (s.setLane l (withCurtain u c)).scanPassing l = (s.setLane l (withCurtain u c)).profileReject l .double := by
  rw [State.scanPassing, State.setLane_lane_self]
  match hr : runsOf (withCurtain u c).curtain.settled with
  | [] => exact absurd (hr ▸ h) (by decide)
  | [_] => exact absurd (hr ▸ h) (by simp)
  | _ :: _ :: _ => rfl

/-- R38: with every beam clear the profile ends: diameter and length are written and STOPPING starts. -/
theorem scanPassing_clear (h : runsOf c.settled = []) {r : ContainerRecord} (hr : u.record = some r) :
    (s.setLane l (withCurtain u c)).scanPassing l =
      s.setLane l { withCurtain u { c with phase := .stopping, stops := 0 } with
        record := some { r with diameter := some c.extent, length := some (c.pulses * u.config.beltPitch) } } := by
  simp [State.scanPassing, withCurtain, h, State.profileEnds, State.modRecord, State.modLane, hr]

end

theorem settled_ne_zero_of_runs {b : BitVec 32} (h : runsOf b ≠ []) : ¬ b = 0#32 := by
  rintro rfl
  exact h runsOf_zero

/-! ### The end by DOUBLE (R18, R20, R37, R93) -/

/-- The lane whose record is rejected in a profile, on its way into RETURN. -/
def rejected (u : LaneUnit) (r : ContainerRecord) (reason : Reason) : LaneUnit :=
  { u with
    state := .returning, faultCause := none, mouthOpen := false, returnTravel := 0
    belt := if u.mouth.settled then .off else .reverse
    record := some { r with verdict := some (.reject reason) }
    session := u.session.rejectCounted
    curtain := { u.curtain with phase := .ended } }

theorem profileReject_eq {s : State} {l : Lane} {u : LaneUnit} {r : ContainerRecord} (reason : Reason) (hu : u.state = .admitting)
    (hr : u.record = some r) (hd : r.destination = none) (ho : s.outbox = []) :
    (s.setLane l u).profileReject l reason =
      reporting s l (rejected u r reason) [.whole (r.report (.reject reason) none), .lane l] s.link.heldOut := by
  have hrec : ({ r with verdict := some (.reject reason), destination := none } : ContainerRecord) =
      { r with verdict := some (.reject reason) } := by rw [← hd]
  rw [setLane_eq_reporting s l u ho]
  simp only [State.profileReject, State.rejectRecord, State.tellReject, State.enterReturn, State.modRecord, reporting_modLane,
    reporting_lane, reporting_makeWhole, hr, Option.map_some, Option.bind_some, hd, State.release, List.nil_append]
  rw [reporting_setLaneState _ _ _ _ _ (by simp [hu]) (by simp), hrec]
  rfl

/-- A lane that stops for RETURN or FAULT with its record has no rule due, where none was due before. -/
theorem due_of_stopped {held : Bool} {u v : LaneUnit} (hv : v.due held = false) (ho : v.isOpen = true)
    (hu : u.state = .returning ∨ u.state = .fault) (hr : u.record.isNone = false) (hh : u.holds = v.holds)
    (hs : u.session.state = v.session.state) (hw : u.session.voucherWaiting = v.session.voucherWaiting)
    (ha : u.holdsAccept = v.holdsAccept) : u.due held = false := by
  simp only [LaneUnit.due, Bool.or_eq_false_iff] at hv ⊢
  obtain ⟨⟨⟨⟨hhold, -⟩, hvoucher⟩, -⟩, -⟩ := hv
  refine ⟨⟨⟨⟨?_, ?_⟩, ?_⟩, ?_⟩, ?_⟩
  · rw [ho, Bool.true_and] at hhold
    rw [hh, hhold, Bool.and_false]
  · rcases hu with hu | hu <;> simp [LaneUnit.wakesUnheld, hu]
  · rw [← hvoucher, LaneUnit.voucherDue, LaneUnit.voucherDue, hs, hw, ha]
  · simp [LaneUnit.closes, hr]
  · rcases hu with hu | hu <;> simp [LaneUnit.admits, hu]

theorem rejectCounted_eq (t : Session) :
    t.rejectCounted = { t with rejected := if t.state = .opened then satSucc 65535 t.rejected else t.rejected } := by
  obtain ⟨state, number, cause, lines, itemCount, valueTotal, rejected, voucherWaiting⟩ := t
  cases state <;> rfl

/-! ### Contaminated scans (R30, R32) -/

theorem scanCurtain_contaminated {s : State} {l : Lane} {x : Scan} (ho : (s.lane l).state ≠ .closed) (hd : x.dark ≠ 0#8) :
    State.scanCurtain x l s = s.contaminatedScan l := by
  simp [State.scanCurtain, isOpen_of_not_closed ho, scanContaminated, hd]

theorem contaminatedScan_counts {s : State} {l : Lane} (h : (s.lane l).curtain.stray < 2) :
    s.contaminatedScan l =
      s.setLane l (withCurtain (s.lane l) { (s.lane l).curtain with stray := (s.lane l).curtain.stray + 1 }) := by
  have h3 : satSucc 3 (s.lane l).curtain.stray = (s.lane l).curtain.stray + 1 := if_pos (by omega)
  have hne : ¬ (s.lane l).curtain.stray + 1 = 3 := by omega
  simp [State.contaminatedScan, State.modLane, withCurtain, Config.strayLightScans, h3, hne]

/-- R32: the third contaminated scan in a row faults the lane; the count stays at 3. -/
theorem contaminatedScan_faults {s : State} {l : Lane} (h : (s.lane l).curtain.stray = 2 ∨ (s.lane l).curtain.stray = 3) :
    s.contaminatedScan l =
      (s.setLane l (withCurtain (s.lane l) { (s.lane l).curtain with stray := 3 })).laneFault l .strayLight := by
  have h3 : satSucc 3 (s.lane l).curtain.stray = 3 := by rcases h with h | h <;> rw [h] <;> rfl
  simp [State.contaminatedScan, State.modLane, withCurtain, Config.strayLightScans, h3]

/-- The states of ADMIT to RETURN, HANDOFF apart, that a lane may leave for FAULT. -/
abbrev Faultable (t : LaneState) : Prop := t = .admitting ∨ t = .weigh ∨ t = .query ∨ t = .hold ∨ t = .returning

theorem faultable_ne {t : LaneState} (h : Faultable t) : t ≠ .closed ∧ t ≠ .fault := by
  rcases h with rfl | rfl | rfl | rfl | rfl <;> decide

/-- What the end of the state left leaves of the held-out reports (R100, R191). -/
def heldAfterFault (s : State) (l : Lane) (t : LaneState) : List Report :=
  if t = .query then s.link.heldOut.filter (fun r => !r.isCodeQueryOf l) else s.link.heldOut

/-- The lane with what was running in its state ended, where it holds no place with the Merge Arbiter (R21). -/
def leftState (u : LaneUnit) : LaneUnit :=
  { u with
    curtain := { u.curtain with phase := if u.state = .admitting then .none else u.curtain.phase }
    weigher := if u.state = .weigh then Weigher.idle else u.weigher
    query := if u.state = .query then .idle else u.query }

/-- The lane in FAULT, with what was running in the state it left ended and the converter on (R21, R24). -/
def faulted (u : LaneUnit) (cause : LaneFault) : LaneUnit :=
  { leftState u with
    state := .fault, faultCause := some cause, belt := .off, mouthOpen := false, converterOn := true
    coldStart := u.coldStart || !u.converterOn }

theorem leftState_of_still {u : LaneUnit} (h : u.state = .hold ∨ u.state = .returning) : leftState u = u := by
  have ha : u.state ≠ .admitting := by rcases h with h | h <;> rw [h] <;> decide
  have hw : u.state ≠ .weigh := by rcases h with h | h <;> rw [h] <;> decide
  have hq : u.state ≠ .query := by rcases h with h | h <;> rw [h] <;> decide
  simp only [leftState, if_neg ha, if_neg hw, if_neg hq]

theorem dropRequest_of_not_mem {s : State} {l : Lane} (h : l ∉ s.requests) : s.dropRequest l = s := by
  have hdrop : s.requests.filter (· ≠ l) = s.requests := by
    rw [List.filter_eq_self]
    intro a ha
    exact decide_eq_true (fun e : a = l => h (e ▸ ha))
  rw [State.dropRequest, hdrop]

theorem endLeftState_eq {s : State} {l : Lane} {u : LaneUnit} (hu : Faultable u.state) (hq : l ∉ s.requests) :
    (reporting s l u [] s.link.heldOut).endLeftState l = reporting s l (leftState u) [] (heldAfterFault s l u.state) := by
  rw [State.endLeftState, reporting_lane]
  rcases hu with hu | hu | hu | hu | hu
  · simp [hu, leftState, heldAfterFault]
  · simp [hu, leftState, heldAfterFault, LaneUnit.endRun]
  · have hleft : leftState u = { u with query := .idle } := by simp [leftState, hu]
    rw [hu, hleft]
    simp only [State.endQuery, reporting_modLane, heldAfterFault, if_pos]
    rfl
  · rw [hu, leftState_of_still (Or.inl hu)]
    exact dropRequest_of_not_mem (s := reporting s l u [] s.link.heldOut) hq
  · rw [hu, leftState_of_still (Or.inr hu)]
    rfl

theorem laneFault_eq {s : State} {l : Lane} {u : LaneUnit} (cause : LaneFault) (hu : Faultable u.state) (hq : l ∉ s.requests)
    (ho : s.outbox = []) :
    (s.setLane l u).laneFault l cause = reporting s l (faulted u cause) [.lane l] (heldAfterFault s l u.state) := by
  have hne := faultable_ne hu
  have hu' : ({ (leftState u).powerConverter with belt := .off, faultCause := some cause, mouthOpen := false, state := .fault } :
      LaneUnit) = faulted u cause := by
    cases hc : u.converterOn <;> simp [LaneUnit.powerConverter, leftState, faulted, hc]
  have hstate : (leftState u).powerConverter.state = u.state := by
    unfold LaneUnit.powerConverter
    split <;> rfl
  rw [setLane_eq_reporting s l u ho, State.laneFault, reporting_lane]
  split
  · next h => exact absurd h hne.1
  · next h => exact absurd h hne.2
  · rw [endLeftState_eq hu hq, reporting_modLane, reporting_setLaneState _ _ _ _ _ (by simpa [hstate] using hne.2) (by simp)]
    dsimp only
    rw [hu']
    rfl

/-- A profile that ends by DOUBLE at a clean scan: two runs in WAITING or PASSING, or a blocked beam in STOPPING. -/
abbrev DoubleAt (c : Curtain) (raw : BitVec 32) : Prop :=
  c.phase = .passing ∧ 2 ≤ (runsOf (c.debounce raw).settled).length ∨
  c.phase = .waiting ∧ 2 ≤ (runsOf (c.debounce raw).settled).length ∨ c.phase = .stopping ∧ (c.debounce raw).settled ≠ 0

/-- The lane at which a profile ends by DOUBLE, at the reject; a first blocked scan has set the pulse count to 0. -/
def doubled (u : LaneUnit) (raw : BitVec 32) (r : ContainerRecord) : LaneUnit :=
  rejected (withCurtain u { cleaned u.curtain raw with
    pulses := if u.curtain.phase = .waiting then 0 else u.curtain.pulses }) r .double

theorem cleanScan_double {s : State} {l : Lane} {raw : BitVec 32} {r : ContainerRecord} (ha : (s.lane l).state = .admitting)
    (hr : (s.lane l).record = some r) (hd : r.destination = none) (ho : s.outbox = []) (h : DoubleAt (s.lane l).curtain raw) :
    s.cleanScan l raw =
      reporting s l (doubled (s.lane l) raw r) [.whole (r.report (.reject .double) none), .lane l] s.link.heldOut := by
  have reject : ∀ c : Curtain, (s.setLane l (withCurtain (s.lane l) c)).profileReject l .double = _ :=
    fun c => profileReject_eq (u := withCurtain (s.lane l) c) .double ha hr hd ho
  rcases h with ⟨hp, h⟩ | ⟨hp, h⟩ | ⟨hp, h⟩
  · rw [cleanScan_passing hp, scanPassing_double _ _ _ (cleaned (s.lane l).curtain raw) h, reject, doubled, if_neg (by rw [hp]; decide)]
    rfl
  · rw [cleanScan_first hp (settled_ne_zero_of_runs fun e => by simp [e] at h),
      scanPassing_double _ _ _ { cleaned (s.lane l).curtain raw with phase := .passing, pulses := 0 } h, reject, doubled, if_pos hp]
    rfl
  · rw [cleanScan_stopping hp h, reject, doubled, if_neg (by rw [hp]; decide)]
    rfl

/-! ### The event of a scan -/

/-- The event of a scan at which the lane is moved on and reports are made. -/
theorem exec_curtainScan_reports {s : State} (hs : s.Ready) {l : Lane} {x : Scan} {u : LaneUnit} {made : List Made} {held : List Report}
    (hx : (s.lane l).scanSettles x = false) (hc : State.scanCurtain x l s = reporting s l u made held) (hu : u.state ≠ .closed)
    (hm : u.mouth = (s.lane l).mouth) (hb : u.button = (s.lane l).button) :
    exec (.curtainScan l x) s = .next (settle (reporting s l (withReadings x u) made held)) := by
  have hscan : State.scanEvent x l s = reporting s l (withReadings x u) made held := by
    rw [scanEvent_eq hx hc (by simpa using hu) (by simpa using hm) (by simpa using hb)]
    simp
  show s.event (State.scanEvent x l) = _
  rw [State.event, hs.1, hscan]
  rfl

theorem outbox_of_ready {s : State} (hs : s.Ready) : s.outbox = [] := ((rest_iff s).1 hs.2.1).2.1

theorem due_of_ready {s : State} (hs : s.Ready) (l : Lane) : (s.lane l).due s.conveyorHeld = false := ((rest_iff s).1 hs.2.1).1.lanes l

/-- A CLOSED lane is not scanned, and none of its lines is read (R8, R29). -/
theorem scanEvent_closed {s : State} {l : Lane} (h : (s.lane l).state = .closed) (x : Scan) : State.scanEvent x l s = s := by
  have ho : (s.lane l).isOpen = false := by rw [LaneUnit.isOpen, h]; rfl
  simp [State.scanEvent, scanParts, State.scanCurtain, State.readMouth, State.readButton, ho]

section
variable {s : State} {l : Lane} {x : Scan} {r : ContainerRecord}

theorem double_reportable (hs : s.Ready) (ha : (s.lane l).state = .admitting) (hr : (s.lane l).record = some r)
    (hv : r.verdict = none) :
    Reportable s (withReadings x (doubled (s.lane l) (scanBeams x) r)) [.whole (r.report (.reject .double) none), .lane l]
      s.link.heldOut := by
  have hopen : (s.lane l).isOpen = true := isOpen_of_not_closed (by rw [ha]; decide)
  refine ⟨hs, due_of_stopped (due_of_ready hs l) hopen (Or.inl rfl) rfl rfl ?_ ?_ ?_, id, ?_, by simp⟩
  · show (s.lane l).session.rejectCounted.state = _
    rw [rejectCounted_eq]
  · show (s.lane l).session.rejectCounted.voucherWaiting = _
    rw [rejectCounted_eq]
  · simp [LaneUnit.holdsAccept, LaneUnit.verdict, hr, hv, withReadings, doubled, rejected]
  · simp [Made.plain]

theorem fault_reportable (hs : s.Ready) (hf : Faultable (s.lane l).state) (hr : (s.lane l).record = some r) (c : Curtain)
    (cause : LaneFault) :
    Reportable s (withReadings x (faulted (withCurtain (s.lane l) c) cause)) [.lane l] (heldAfterFault s l (s.lane l).state) := by
  have hopen : (s.lane l).isOpen = true := isOpen_of_not_closed (faultable_ne hf).1
  refine ⟨hs, due_of_stopped (due_of_ready hs l) hopen (Or.inr rfl) ?_ rfl rfl rfl rfl, fun h => ?_, ?_, by simp⟩
  · show (s.lane l).record.isNone = false
    rw [hr]
    rfl
  · simp [heldAfterFault, h]
  · simp [Made.plain]

/-- The event of a scan that ends a profile by DOUBLE. -/
theorem exec_curtainScan_double (hs : s.Ready) (hx : (s.lane l).scanSettles x = false) (hd : x.dark = 0#8)
    (ha : (s.lane l).state = .admitting) (hr : (s.lane l).record = some r) (hv : r.verdict = none) (hdest : r.destination = none)
    (h : DoubleAt (s.lane l).curtain (scanBeams x)) :
    ∃ t, exec (.curtainScan l x) s = .next t ∧ t.ToldOrLost (r.report (.reject .double) none) ∧ t.Told (.lane (t.laneReport l)) ∧
      t.apart = (s.setLane l (LaneUnit.syncShutter (withReadings x (doubled (s.lane l) (scanBeams x) r)))).apart := by
  have hopen : (s.lane l).state ≠ .closed := by rw [ha]; decide
  have hrep := double_reportable (x := x) hs ha hr hv
  have hsubjects : ∀ t : State, [Made.whole (r.report (.reject .double) none), .lane l].Pairwise
      (fun a b => ∀ x, (t.reportOf b).treatment = .coalesced x → (t.reportOf a).isOf x = false) :=
    fun t => List.pairwise_pair.2 fun _ _ => rfl
  refine ⟨_, exec_curtainScan_reports hs hx
    ((scanCurtain_clean hopen hd).trans (cleanScan_double ha hr hdest (outbox_of_ready hs) h)) LaneState.noConfusion rfl rfl, ?_, ?_,
    settle_reporting_apart hrep⟩
  · exact settle_toldOrLost _ (reporting_reporting hrep) (hsubjects _) (.whole _) List.mem_cons_self rfl
  · exact settle_reporting_told_lane hrep (by simp) (hsubjects _)

/-- The event of a scan whose stray light faults the lane. -/
theorem exec_curtainScan_fault (hs : s.Ready) (hx : (s.lane l).scanSettles x = false) (hd : x.dark ≠ 0#8)
    (h : (s.lane l).curtain.stray = 2 ∨ (s.lane l).curtain.stray = 3) (hf : Faultable (s.lane l).state)
    (hr : (s.lane l).record = some r) (hq : l ∉ s.requests) :
    ∃ t, exec (.curtainScan l x) s = .next t ∧ t.Told (.lane (t.laneReport l)) ∧
      t.apart = (s.setLane l (LaneUnit.syncShutter (withReadings x
        (faulted (withCurtain (s.lane l) { (s.lane l).curtain with stray := 3 }) .strayLight)))).apart := by
  have hopen : (s.lane l).state ≠ .closed := (faultable_ne hf).1
  have hrep := fault_reportable (x := x) hs hf hr { (s.lane l).curtain with stray := 3 } .strayLight
  have hscan := (scanCurtain_contaminated hopen hd).trans ((contaminatedScan_faults h).trans
    (laneFault_eq (u := withCurtain (s.lane l) { (s.lane l).curtain with stray := 3 }) .strayLight hf hq (outbox_of_ready hs)))
  exact ⟨_, exec_curtainScan_reports hs hx hscan LaneState.noConfusion rfl rfl,
    settle_reporting_told_lane hrep List.mem_cons_self (List.pairwise_singleton _ _), settle_reporting_apart hrep⟩

end

/-- Settles O40: the curtain's part of the scan by its phase, then the readings of the lines, and the event's end. -/
theorem curtainScanFollowsTheProfile : Obligations.CurtainScanFollowsTheProfile := by
  refine ⟨?closed, ?idle, ?first, ?single, ?ends, ?double, ?counts, ?faults⟩
  case closed => exact fun s l x hs h => event_idle hs (scanEvent_closed h x)
  case idle =>
    intro s l x hs ho hx hd h
    exact exec_curtainScan_quiet hs ho hx ((scanCurtain_clean ho hd).trans (cleanScan_idle h)) rfl rfl rfl
  case first =>
    intro s l x lo hi hs ho hx hd hp h
    have hscan := (cleanScan_first hp (settled_ne_zero_of_runs (by simp [h]))).trans (scanPassing_single s l (s.lane l)
      { cleaned (s.lane l).curtain (scanBeams x) with phase := .passing, pulses := 0 } h)
    exact exec_curtainScan_quiet hs ho hx ((scanCurtain_clean ho hd).trans hscan) rfl rfl rfl
  case single =>
    intro s l x lo hi hs ho hx hd hp h
    have hscan := (cleanScan_passing hp).trans (scanPassing_single s l (s.lane l) (cleaned (s.lane l).curtain (scanBeams x)) h)
    exact exec_curtainScan_quiet hs ho hx ((scanCurtain_clean ho hd).trans hscan) rfl rfl rfl
  case ends =>
    intro s l x r hs ho hx hd hp hclear hr
    have hruns : runsOf ((s.lane l).curtain.debounce (scanBeams x)).settled = [] := by rw [hclear, runsOf_zero]
    have hscan := (cleanScan_passing hp).trans (scanPassing_clear s l (s.lane l) (cleaned (s.lane l).curtain (scanBeams x)) hruns hr)
    refine exec_curtainScan_quiet hs ho hx ((scanCurtain_clean ho hd).trans hscan) rfl rfl ?_
    simp [watched, withCurtain, LaneUnit.holdsAccept, LaneUnit.verdict, hr]
  case double =>
    intro s l x r hs _ hx hd ha hr hv hdest h
    obtain ⟨t, ht, hcontainer, hlane, hapart⟩ := exec_curtainScan_double hs hx hd ha hr hv hdest h
    refine ⟨t, ht, hcontainer, hlane, ?_⟩
    rw [hapart, ← rejectCounted_eq]
    rfl
  case counts =>
    intro s l x hs ho hx hd h
    exact exec_curtainScan_quiet hs ho hx ((scanCurtain_contaminated ho hd).trans (contaminatedScan_counts h)) rfl rfl rfl
  case faults =>
    intro s l x r hs hx hd h hf hr hq
    exact exec_curtainScan_fault hs hx hd h hf hr hq

end Sys2Proof.Machine.CurtainAndReader

/-! PROOFS. The Weigher: the arithmetic of a window (R53 to R55, R60, R64), the start of a calibration run (R58), the taking of a sample (R48 to
R53), the ends of the calibration runs (R59 to R64) and the deciding window of a CONTAINER run with the verdict it brings (R56, R84 to R93). -/

namespace Sys2Proof.Machine.Weighing
open Sys2Proof.Machine.CurtainAndReader

/-! ### The arithmetic of a window (R53 to R55, R60, R64) -/

theorem weightOf_of_nonpos {n : Int} (h : n ≤ 0) (k : Nat) : weightOf n k = 0 := if_pos h

/-- R55: the rounded quotient, capped. -/
theorem weightOf_of_pos {n : Nat} (h : 0 < n) (k : Nat) : weightOf n k = min 20000 ((n * k + 8388608) / 16777216) :=
  if_neg (by omega)

/-- R60: the span is the quotient of the mass in weight steps, rounded to nearest. -/
theorem spanOf_bounds (m : Nat) {n : Nat} (h : 0 < n) :
    spanOf m n * n ≤ m * 16777216 + n / 2 ∧ m * 16777216 + n / 2 < (spanOf m n + 1) * n := by
  refine ⟨Nat.div_mul_le_self _ n, ?_⟩
  rw [Nat.mul_comm (spanOf m n + 1)]
  exact Nat.lt_mul_div_succ _ h

theorem stabilityLimit_of_le {d : Nat} {g : Gain} (h : 16 ≤ d * g.factor) : stabilityLimit d g = d * g.factor / 16 :=
  max_eq_right (by omega)

theorem stabilityLimit_of_lt {d : Nat} {g : Gain} (h : d * g.factor < 16) : stabilityLimit d g = 1 :=
  max_eq_left (by omega)

/-- R54: sixteen samples of sixteen bits sum to a count of twenty bits. -/
theorem window_sum_bounds {l : List Int} (hlen : l.length = 16) (h : ∀ x ∈ l, -32768 ≤ x ∧ x ≤ 32767) :
    -524288 ≤ l.sum ∧ l.sum ≤ 524272 := by
  have hlo := List.card_nsmul_le_sum l (-32768) (fun x hx => (h x hx).1)
  have hhi := List.sum_le_card_nsmul l 32767 (fun x hx => (h x hx).2)
  rw [hlen] at hlo hhi
  simp only [nsmul_eq_mul] at hlo hhi
  exact ⟨by omega, by omega⟩

theorem normalised_g16 (l : List Int) : normalised l .g16 = l.sum := Int.mul_one _
theorem normalised_g4 (l : List Int) : normalised l .g4 = 4 * l.sum := Int.mul_comm _ _
theorem normalised_g1 (l : List Int) : normalised l .g1 = 16 * l.sum := Int.mul_comm _ _

/-- Settles O16, formula by formula. -/
theorem weighingArithmeticRoundsToNearest : Obligations.WeighingArithmeticRoundsToNearest := by
  refine ⟨?nonpos, ?weight, ?span, ?drift, ?limit, ⟨rfl, rfl, rfl⟩, ?count⟩
  case nonpos => exact fun n k h => weightOf_of_nonpos h k
  case weight =>
    intro n k h
    rw [weightOf_of_pos h k]
    generalize n * k = p
    omega
  case span => exact fun m n h => spanOf_bounds m h
  case drift =>
    intro n k
    rw [driftOf]
    generalize n.natAbs * k = p
    omega
  case limit => exact fun d g => ⟨stabilityLimit_of_le, stabilityLimit_of_lt⟩
  case count =>
    intro l hlen h
    obtain ⟨hlo, hhi⟩ := window_sum_bounds hlen h
    refine ⟨normalised_g16 l, normalised_g4 l, normalised_g1 l, hlo, hhi, fun g => ?_⟩
    cases g with
    | g16 => rw [normalised_g16]; omega
    | g4 => rw [normalised_g4]; omega
    | g1 => rw [normalised_g1]; omega

/-! ### The end of an event whose reports are offered -/

/-- What the beginning of a frame leaves and takes (R187). -/
theorem begin_some {k k' : LinkPort} (h : k.begin? = some k') :
    k.transmitter = none ∧ k'.transmitter ≠ none ∧ k'.replySlot = none ∧ k'.heldOut = k.heldOut ∧ k'.intake = k.intake := by
  unfold LinkPort.begin? at h
  split at h <;> cases h
  · next htx _ => exact ⟨htx, by simp, rfl, rfl, rfl⟩
  · next htx hslot _ => exact ⟨htx, by simp, hslot, rfl, rfl⟩

theorem intake_of_noTake {s : State} (h : s.NoTake) (hr : s.link.replySlot = none ∨ s.link.transmitter = none) : s.link.intake = [] := by
  rcases h with h | ⟨hslot, htx⟩
  · exact h
  · rcases hr with hr | hr <;> simp [hr] at hslot htx

/-- Where no rule of the corner is due, the reports are offered, a command is taken or a frame begins. -/
theorem fire_of_quiet {s : State} (hq : s.Quiet) : fire s = ((s.dueFlush.or s.dueTake).or s.dueBegin) := by
  obtain ⟨h1, h2, h3, h4, h5, h6, h7, h8, h9⟩ := (quiet_iff s).1 hq
  simp only [fire, rules, cornerRules, List.cons_append, List.nil_append, List.findSome?_cons, List.findSome?_nil, h1, h2, h3, h4, h5,
    h6, h7, h8, h9]
  cases s.dueFlush <;> cases s.dueTake <;> cases s.dueBegin <;> rfl

/-- With nothing due and the reports offered, a frame begins where the transmitter is idle, the shutters follow, and the event ends. -/
theorem settle_offered {s : State} (hq : s.Quiet) (ho : s.outbox = []) (ht : s.NoTake)
    (hidle : s.link.transmitter = none → s.link.heldOut = []) :
    settle s = State.syncShutters { s with link := s.link.begin?.getD s.link } := by
  have rests : ∀ t : State, fire t = none → settle t = t.syncShutters := by
    intro t h
    rw [settle, settleLoop_of_none _ t h]
  cases hb : s.link.begin? with
  | none => exact rests s ((rest_iff s).2 ⟨hq, ho, fun hr => intake_of_noTake ht (Or.inl hr), hb⟩)
  | some k =>
    obtain ⟨htx, htx', hslot, hheld, hintake⟩ := begin_some hb
    have hin := intake_of_noTake ht (Or.inr htx)
    have hflush : s.dueFlush = none := by simp [State.dueFlush, ho]
    have htake : s.dueTake = none := by simp [State.dueTake, hin]
    have hbegin : s.dueBegin = some { s with link := k } := by simp [State.dueBegin, hb]
    have hfire : fire s = some { s with link := k } := by
      rw [fire_of_quiet hq, hflush, htake, hbegin]
      rfl
    rw [settle_fire hfire]
    refine rests _ ((rest_iff _).2 ⟨?_, ho, fun _ => hintake.trans hin, (begin_none_iff k).2 (fun h => absurd h htx')⟩)
    exact quiet_congr hq rfl rfl rfl rfl rfl rfl rfl rfl (fun _ => hheld.trans (hidle htx))

theorem queue_of_idle {s : State} (hs : s.Ready) (ht : s.link.transmitter = none) : s.link.queue = [] :=
  ((begin_none_iff _).1 ((rest_iff s).1 hs.2.1).2.2.2 ht).2

theorem heldOut_of_idle {s : State} (hs : s.Ready) (ht : s.link.transmitter = none) : s.link.heldOut = [] :=
  ((rest_iff s).1 hs.2.1).1.held (by simp [LinkPort.hasRoom, queue_of_idle hs ht, Config.queueReports])

/-- A LANE report made at an event is told, with the snapshot of the event's end (R5). -/
theorem settle_told_lane {s : State} (h : s.Reporting) {l : Lane} (hm : .lane l ∈ s.outbox)
    (hd : s.outbox.Pairwise (fun a b => ∀ x, (s.reportOf b).treatment = .coalesced x → (s.reportOf a).isOf x = false)) :
    (settle s).Told (.lane ((settle s).laneReport l)) := by
  have hl : (settle s).lane l = (s.lane l).syncShutter :=
    (congrArg (fun t : State => t.lane l) (settle_apart s h)).trans (syncShutters_lane s l)
  have e : (settle s).laneReport l = s.laneReport l := by simp only [State.laneReport, hl, LaneUnit.syncShutter]
  rw [e]
  rcases settle_told s h hd _ hm with ht | ⟨ht, -⟩
  · exact ht
  · cases ht

/-! ### The taking of a command (R185 to R187) -/

/-- With the reply slot empty a command row is taken at its own event. -/
theorem hostRow_taken {s : State} (hs : s.TakesCommands) (i : Instr) (cmd : State → State) :
    s.hostRow i cmd = .next (settle (cmd s)) := by
  obtain ⟨⟨hreset, -⟩, hslot⟩ := hs
  simp [State.hostRow, State.event, hreset, hslot]

theorem intake_of_takes {s : State} (hs : s.TakesCommands) : s.link.intake = [] :=
  intake_of_noTake (noTake_of_rest s hs.1.2.1) (Or.inl hs.2)

theorem reporting_answer_reporting {s : State} (hs : s.TakesCommands) {l : Lane} {u : LaneUnit} {made : List Made} {held : List Report}
    (h : Reportable s u made held) (kind tag : Byte) (r : Result) : ((reporting s l u made held).answer kind tag r).Reporting where
  quiet := quiet_congr (reporting_reporting h).quiet rfl rfl rfl rfl rfl rfl rfl rfl (reporting_reporting (l := l) h).quiet.held
  plain := h.plain
  few := h.few
  idle := (reporting_reporting (l := l) h).idle
  take := Or.inl (show s.link.intake = [] from intake_of_takes hs)

/-- A reply without reports is sent at once, or waits in the slot behind the frame being sent. -/
theorem replied_eq {s : State} (h : s.link.replySlot = none) (f : Frame) :
    s.replied f = { s with
      link := (LinkPort.begin? { s.link with replySlot := some f }).getD { s.link with replySlot := some f } } := by
  cases htx : s.link.transmitter with
  | none =>
    have hk : { s.link with transmitter := some f } = { s.link with replySlot := none, transmitter := some f } :=
      congrArg (fun x => { s.link with replySlot := x, transmitter := some f }) h
    simp [State.replied, LinkPort.begin?, htx, hk]
  | some g => simp [State.replied, LinkPort.begin?, htx]

/-- The event of a command that changes one lane and makes no report: the lane, its shutter and the reply. -/
theorem settle_answered {s : State} (hs : s.TakesCommands) {l : Lane} {u : LaneUnit} (hu : u.due s.conveyorHeld = false)
    (kind tag : Byte) (r : Result) :
    settle ((s.setLane l u).answer kind tag r) = (s.setLane l u.syncShutter).replied (replyFrame kind tag r []) := by
  obtain ⟨hrest, hshut⟩ := hs.1.2
  obtain ⟨hquiet, hout, -, -⟩ := (rest_iff s).1 hrest
  have hq : ((s.setLane l u).answer kind tag r).Quiet :=
    quiet_congr (quiet_setLane hquiet l u hu) rfl rfl rfl rfl rfl rfl rfl rfl hquiet.held
  have hin : s.link.intake = [] := intake_of_takes hs
  have hidle : s.link.transmitter = none → s.link.heldOut = [] := heldOut_of_idle hs.1
  have hlane : (s.setLane l u).syncShutters = s.setLane l u.syncShutter := by rw [syncShutters_setLane, hshut]
  rw [settle_offered hq hout (Or.inl hin) hidle, replied_eq (s := s.setLane l u.syncShutter) hs.2, ← hlane]
  rfl

/-! ### The start of a calibration run (R49, R50, R58) -/

/-- The lane with a calibration run started: the first discard at gain 16, whatever AUTO_ZERO run was in progress. -/
def calibrating (u : LaneUnit) (kind : RunKind) (mass : Option Nat) : LaneUnit :=
  { u with
    calRunning := true
    weigher := ⟨kind, .discard, .g16, if u.coldStart then 64 else u.config.settleCount, u.coldStart, [], 0, mass⟩ }

theorem abandonAutoZero_startRun (u : LaneUnit) (kind : RunKind) (mass : Option Nat) :
    u.abandonAutoZero.startRun kind mass = u.startRun kind mass := by
  unfold LaneUnit.abandonAutoZero
  split <;> rfl

/-- A READY lane in calibration has no rule due, where the lane it was before had none. -/
theorem due_calibrating {held : Bool} {u v : LaneUnit} (hv : v.due held = false) (ho : v.isOpen = true) (hu : u.state = .ready)
    (hh : u.holds = v.holds) (hs : u.session = v.session) (hr : u.record = v.record) (kind : RunKind) (mass : Option Nat) :
    (calibrating u kind mass).due held = false := by
  simp only [LaneUnit.due, Bool.or_eq_false_iff] at hv ⊢
  obtain ⟨⟨⟨⟨hhold, -⟩, hvoucher⟩, -⟩, -⟩ := hv
  refine ⟨⟨⟨⟨?_, ?_⟩, ?_⟩, ?_⟩, ?_⟩
  · rw [ho, Bool.true_and, ← hh] at hhold
    simp [calibrating, hhold]
  · simp [calibrating, LaneUnit.wakesUnheld, hu]
  · rw [← hvoucher]
    simp [calibrating, LaneUnit.voucherDue, LaneUnit.holdsAccept, LaneUnit.verdict, hs, hr]
  · simp [calibrating, LaneUnit.closes]
  · simp [calibrating, LaneUnit.admits]

theorem startCalibration_ready {s : State} {l : Lane} (h : (s.lane l).state = .ready) (kind : RunKind) (mass : Option Nat) :
    s.startCalibration l kind mass = s.setLane l (calibrating (s.lane l) kind mass) := by
  simp only [State.startCalibration, State.wake, h, State.modLane, abandonAutoZero_startRun]
  rfl

/-- R24: a STANDBY lane wakes to READY with its LANE report. -/
theorem wake_standby {s : State} {l : Lane} (h : (s.lane l).state = .standby) (ho : s.outbox = []) :
    s.wake l = reporting s l (s.lane l).awake [.lane l] s.link.heldOut := by
  have hu : { (s.lane l).powerConverter with
      belt := .off, faultCause := none, mouthOpen := false, curtain := { (s.lane l).curtain with phase := .none },
      state := .ready } = (s.lane l).awake := by
    cases hc : (s.lane l).converterOn <;> simp [LaneUnit.powerConverter, LaneUnit.awake, h, hc]
  have hstate : (s.lane l).powerConverter.state = .standby := by
    unfold LaneUnit.powerConverter
    split <;> exact h
  rw [State.wake, h, ← hu]
  simp only [State.enterReady, State.modLane, setLane_eq_reporting _ _ _ ho]
  rw [reporting_setLaneState _ _ _ _ _ (by simp [hstate]) (by simp)]
  rfl

theorem startCalibration_standby {s : State} {l : Lane} (h : (s.lane l).state = .standby) (ho : s.outbox = []) (kind : RunKind)
    (mass : Option Nat) :
    s.startCalibration l kind mass = reporting s l (calibrating (s.lane l).awake kind mass) [.lane l] s.link.heldOut := by
  rw [State.startCalibration, wake_standby h ho, reporting_modLane, abandonAutoZero_startRun]
  rfl

theorem laneOf_val (l : Lane) : laneOf l.val = some l := dif_pos l.isLt

theorem laneOf_none {n : Nat} (h : 3 < n) : laneOf n = none := dif_neg (by omega)

section
variable {s : State} {l : Lane} (hs : s.TakesCommands)
include hs

/-- A refused command changes nothing but the reply (R186). -/
theorem settle_refused (kind tag : Byte) (r : Result) : settle (s.answer kind tag r) = s.replied (replyFrame kind tag r []) := by
  have hlane : (s.lane 0).syncShutter = s.lane 0 := by rw [← syncShutters_lane, hs.1.2.2]
  have h := settle_answered (l := 0) hs (due_of_ready hs.1 0) kind tag r
  rwa [hlane, setLane_lane_same] at h

/-- The taking of ZERO or SPAN on a READY lane (R58). -/
theorem settle_calibration_ready (hst : (s.lane l).state = .ready) (hcal : (s.lane l).calRunning = false) (kind tag : Byte) (len : Nat)
    (run : RunKind) (mass : Option Nat) :
    settle (s.command ⟨tag, len⟩ kind len (s.checkCalibrate l.val run mass)) =
      (s.setLane l (calibrating (s.lane l) run mass).syncShutter).replied (replyFrame kind tag .ok []) := by
  have hdue : (calibrating (s.lane l) run mass).due s.conveyorHeld = false :=
    due_calibrating (due_of_ready hs.1 l) (isOpen_of_not_closed (by simp [hst])) hst rfl rfl rfl run mass
  rw [← settle_answered hs hdue]
  simp [State.command, State.checkCalibrate, laneOf_val, LaneUnit.takesCalibration, hst, hcal, startCalibration_ready hst]

/-- The taking of ZERO or SPAN on a STANDBY lane: the lane is READY as well, with its LANE report (R58). -/
theorem settle_calibration_standby (hst : (s.lane l).state = .standby) (hcal : (s.lane l).calRunning = false) (kind tag : Byte)
    (len : Nat) (run : RunKind) (mass : Option Nat) :
    ∃ t, settle (s.command ⟨tag, len⟩ kind len (s.checkCalibrate l.val run mass)) = t ∧ t.Replying (replyFrame kind tag .ok []) ∧
      t.Told (.lane (t.laneReport l)) ∧ t.apart = (s.setLane l (calibrating (s.lane l).awake run mass).syncShutter).apart := by
  have hawake : (s.lane l).awake.state = .ready ∧ (s.lane l).awake.holds = (s.lane l).holds ∧
      (s.lane l).awake.session = (s.lane l).session ∧ (s.lane l).awake.record = (s.lane l).record := by
    rw [LaneUnit.awake, hst]
    exact ⟨rfl, rfl, rfl, rfl⟩
  obtain ⟨hready, hholds, hsession, hrecord⟩ := hawake
  have hdue : (calibrating (s.lane l).awake run mass).due s.conveyorHeld = false :=
    due_calibrating (due_of_ready hs.1 l) (isOpen_of_not_closed (by simp [hst])) hready hholds hsession hrecord run mass
  have hrep : Reportable s (calibrating (s.lane l).awake run mass) [.lane l] s.link.heldOut :=
    ⟨hs.1, hdue, id, by simp [Made.plain], by simp⟩
  have h := reporting_answer_reporting (l := l) hs hrep kind tag .ok
  have hcommand : s.command ⟨tag, len⟩ kind len (s.checkCalibrate l.val run mass) =
      (reporting s l (calibrating (s.lane l).awake run mass) [.lane l] s.link.heldOut).answer kind tag .ok := by
    simp [State.command, State.checkCalibrate, laneOf_val, LaneUnit.takesCalibration, hst, hcal,
      startCalibration_standby hst (outbox_of_ready hs.1)]
  refine ⟨_, rfl, ?_, ?_, ?_⟩ <;> rw [hcommand]
  · exact settle_replying _ h _ rfl
  · exact settle_told_lane h List.mem_cons_self (List.pairwise_singleton _ _)
  · rw [settle_apart _ h, ← settle_reporting_apart hrep, settle_apart _ (reporting_reporting hrep)]
    rfl

/-- ZERO and SPAN are refused on a lane that is not READY or STANDBY, or that calibrates (R58). -/
theorem settle_calibration_busy
    (h : ((s.lane l).state ≠ .ready ∧ (s.lane l).state ≠ .standby) ∨ (s.lane l).calRunning = true) (kind tag : Byte) (len : Nat)
    (run : RunKind) (mass : Option Nat) :
    settle (s.command ⟨tag, len⟩ kind len (s.checkCalibrate l.val run mass)) = s.replied (replyFrame kind tag .laneBusy []) := by
  have hno : (s.lane l).takesCalibration = false := by
    rcases h with ⟨hr, hst⟩ | h
    · simp [LaneUnit.takesCalibration, hr, hst]
    · simp [LaneUnit.takesCalibration, h]
  rw [← settle_refused hs]
  simp [State.command, State.checkCalibrate, laneOf_val, hno]

theorem settle_command_refused (kind tag : Byte) (len : Nat) (r : Result) :
    settle (s.command ⟨tag, len⟩ kind len (.error r)) = s.replied (replyFrame kind tag r []) := by
  rw [← settle_refused hs]
  simp [State.command]

end

theorem checkSpan_of_range (s : State) (n : Nat) {m : Nat} (hlo : 100 ≤ m) (hhi : m ≤ 20000) :
    s.checkSpan n m = s.checkCalibrate n .span (some m) := if_pos (by simp [inRange, hlo, hhi])

theorem checkCalibrate_of_bad_lane (s : State) {n : Nat} (h : 3 < n) (run : RunKind) (mass : Option Nat) :
    s.checkCalibrate n run mass = .error .badValue := by
  rw [State.checkCalibrate, laneOf_none h]

theorem checkSpan_bad (s : State) {n m : Nat} (h : 3 < n ∨ m < 100 ∨ 20000 < m) : s.checkSpan n m = .error .badValue := by
  unfold State.checkSpan
  split
  · next hm =>
    simp only [inRange, Bool.and_eq_true, decide_eq_true_eq] at hm
    exact checkCalibrate_of_bad_lane s (by omega) _ _
  · rfl

theorem exec_zero {s : State} (hs : s.TakesCommands) (h : CmdHead) (n : Nat) :
    exec (.zero h n) s = .next (settle (s.command h 0x07#8 1 (s.checkCalibrate n .zero none))) := hostRow_taken hs _ _

theorem exec_span {s : State} (hs : s.TakesCommands) (h : CmdHead) (n m : Nat) :
    exec (.span h n m) s = .next (settle (s.command h 0x08#8 3 (s.checkSpan n m))) := hostRow_taken hs _ _

/-- Settles O31: the run starts from READY or STANDBY, and every other case is refused. -/
theorem zeroAndSpanStartARun : Obligations.ZeroAndSpanStartARun := by
  refine ⟨?zeroReady, ?zeroStandby, ?zeroBusy, ?spanReady, ?spanStandby, ?spanBusy, ?zeroBad, ?spanBad⟩
  case zeroReady =>
    intro s tag l hs hst hcal
    rw [exec_zero hs, settle_calibration_ready hs hst hcal]
    rfl
  case zeroStandby =>
    intro s tag l hs hst hcal
    obtain ⟨t, ht, hreply, htold, hapart⟩ := settle_calibration_standby hs hst hcal 0x07#8 tag 1 .zero none
    rw [LaneUnit.awake, hst] at hapart
    exact ⟨t, by rw [exec_zero hs, ht], hreply, htold, hapart⟩
  case zeroBusy =>
    intro s tag l hs h
    rw [exec_zero hs, settle_calibration_busy hs h]
  case spanReady =>
    intro s tag l m hs hlo hhi hst hcal
    rw [exec_span hs, checkSpan_of_range s l.val hlo hhi, settle_calibration_ready hs hst hcal]
    rfl
  case spanStandby =>
    intro s tag l m hs hlo hhi hst hcal
    obtain ⟨t, ht, hreply, htold, hapart⟩ := settle_calibration_standby hs hst hcal 0x08#8 tag 3 .span (some m)
    rw [LaneUnit.awake, hst] at hapart
    exact ⟨t, by rw [exec_span hs, checkSpan_of_range s l.val hlo hhi, ht], hreply, htold, hapart⟩
  case spanBusy =>
    intro s tag l m hs hlo hhi h
    rw [exec_span hs, checkSpan_of_range s l.val hlo hhi, settle_calibration_busy hs h]
  case zeroBad =>
    intro s tag n hs h
    rw [exec_zero hs, checkCalibrate_of_bad_lane s h, settle_command_refused hs]
  case spanBad =>
    intro s tag n m hs h
    rw [exec_span hs, checkSpan_bad s h, settle_command_refused hs]

/-! ### The taking of a sample (R48, R50, R51) -/

/-- The lane with a sample joined to its window. -/
def gathering (u : LaneUnit) (x : Int) : LaneUnit :=
  { u with weigher := { u.weigher with samples := u.weigher.samples ++ [x] } }

/-- The lane with one attempt of its run spent (R53). -/
def attempted (u : LaneUnit) : LaneUnit := { u with weigher := { u.weigher with attempts := u.weigher.attempts + 1 } }

theorem exec_converterSample (s : State) (l : Lane) (x : BitVec 16) :
    exec (.converterSample l x) s = s.event (fun s => s.sample l x.toInt) := rfl

theorem exec_sample_next {s t : State} (hs : s.Ready) {l : Lane} {x : BitVec 16} (h : s.sample l x.toInt = t) :
    exec (.converterSample l x) s = .next (settle t) := by
  rw [exec_converterSample, State.event, hs.1, h]
  rfl

section
variable {s : State} {l : Lane}

theorem sample_idle (h : (s.lane l).converterOn = false ∨ (s.lane l).weigher.phase = .idle) (x : Int) : s.sample l x = s := by
  unfold State.sample
  rcases h with h | h
  · rw [if_neg (by simp [h])]
  · rw [h, ite_self]

theorem sample_discard (hon : (s.lane l).converterOn = true) (h : (s.lane l).weigher.phase = .discard) (x : Int) :
    s.sample l x = s.setLane l (s.lane l).discardSample := by
  rw [State.sample, if_pos hon, h]
  rfl

theorem sample_window (hon : (s.lane l).converterOn = true) (h : (s.lane l).weigher.phase = .window) (x : Int) :
    s.sample l x = s.windowSample l x := by
  rw [State.sample, if_pos hon, h]

theorem windowSample_gathers (h : (s.lane l).weigher.samples.length < 15) (x : Int) :
    s.windowSample l x = s.setLane l (gathering (s.lane l) x) := by
  have hn : ¬ 15 ≤ (s.lane l).weigher.samples.length := by omega
  simp [State.windowSample, Config.windowSamples, State.modLane, gathering, hn]

/-- R51: the sixteenth sample completes the window, which is tested at the same event. -/
theorem sample_completes (hon : (s.lane l).converterOn = true) (hphase : (s.lane l).weigher.phase = .window)
    (hlen : (s.lane l).weigher.samples.length = 15) (x : Int) :
    s.sample l x = (s.setLane l (gathering (s.lane l) x)).testWindow l := by
  rw [sample_window hon hphase]
  simp [State.windowSample, Config.windowSamples, State.modLane, gathering, hlen]

/-! ### A window tested (R52, R53) -/

/-- The sample is the sixteenth of a window being gathered. -/
structure Completes (u : LaneUnit) : Prop where
  on     : u.converterOn = true
  window : u.weigher.phase = .window
  full   : u.weigher.samples.length = 15

theorem sample_saturated (h : Completes (s.lane l)) {x : Int} (hend : ((s.lane l).weigher.samples ++ [x]).any atEnd = true) :
    s.sample l x = (s.setLane l (gathering (s.lane l) x)).saturatedWindow l := by
  have hend' : ((s.setLane l (gathering (s.lane l) x)).lane l).weigher.samples.any atEnd = true := by simpa [gathering] using hend
  rw [sample_completes h.on h.window h.full, State.testWindow, if_pos hend']

theorem sample_steady (h : Completes (s.lane l)) {x : Int} (hend : ((s.lane l).weigher.samples ++ [x]).any atEnd = false)
    (hsteady : spreadOf ((s.lane l).weigher.samples ++ [x]) ≤ stabilityLimit (s.lane l).config.stabilityLimit (s.lane l).weigher.gain) :
    s.sample l x = (s.setLane l (gathering (s.lane l) x)).steadyWindow l := by
  rw [sample_completes h.on h.window h.full]
  simp only [State.testWindow, State.setLane_lane_self, gathering, hend, hsteady, if_true, if_false, Bool.false_eq_true]

theorem sample_unstable (h : Completes (s.lane l)) {x : Int} (hend : ((s.lane l).weigher.samples ++ [x]).any atEnd = false)
    (hmoves : (stabilityLimit (s.lane l).config.stabilityLimit (s.lane l).weigher.gain : Int) <
      spreadOf ((s.lane l).weigher.samples ++ [x])) :
    s.sample l x = (s.setLane l (gathering (s.lane l) x)).unstableWindow l := by
  rw [sample_completes h.on h.window h.full]
  simp only [State.testWindow, State.setLane_lane_self, gathering, hend, not_le.2 hmoves, if_false, Bool.false_eq_true]

variable {u : LaneUnit}

/-- R53: with attempts left the window is gathered again at the same gain. -/
theorem unstableWindow_again (h : u.weigher.attempts + 1 < u.config.attempts) :
    (s.setLane l u).unstableWindow l = s.setLane l { u with
      weigher := { u.weigher with
        attempts := u.weigher.attempts + 1, phase := .discard, discardRemaining := u.config.settleCount, coldDiscard := false,
        samples := [] } } := by
  simp [State.unstableWindow, State.modLane, LaneUnit.discardAgain, not_le.2 h]

/-- R53: at the last attempt the run ends. -/
theorem unstableWindow_last (h : u.config.attempts ≤ u.weigher.attempts + 1) :
    (s.setLane l u).unstableWindow l = (s.setLane l (attempted u)).unstableRun l := by
  simp [State.unstableWindow, State.modLane, attempted, h]

/-- R52: a CONTAINER or SPAN run saturated above gain 1 goes on at the gain below. -/
theorem saturatedWindow_steps (hrun : u.weigher.run = .container ∨ u.weigher.run = .span) (hgain : u.weigher.gain ≠ .g1) :
    (s.setLane l u).saturatedWindow l = s.setLane l { u with
      weigher := { u.weigher with
        gain := if u.weigher.gain = .g16 then .g4 else .g1, phase := .discard, discardRemaining := u.config.settleCount,
        coldDiscard := false, samples := [] } } := by
  have hbelow : u.weigher.gain.below = some (if u.weigher.gain = .g16 then .g4 else .g1) := by
    cases hg : u.weigher.gain with
    | g16 => rfl
    | g4 => rfl
    | g1 => exact absurd hg hgain
  rcases hrun with hrun | hrun <;> simp [State.saturatedWindow, hrun, hbelow, State.modLane, LaneUnit.discardAgain]

end

/-- R64: an AUTO_ZERO run whose window is saturated, or unstable at the last attempt, ends with no effect. -/
theorem sample_autoZero_ends {s : State} {l : Lane} (h : Completes (s.lane l)) (hrun : (s.lane l).weigher.run = .autoZero) {x : Int}
    (hw : ((s.lane l).weigher.samples ++ [x]).any atEnd = true ∨
      (stabilityLimit (s.lane l).config.stabilityLimit (s.lane l).weigher.gain : Int) < spreadOf ((s.lane l).weigher.samples ++ [x]) ∧
        (s.lane l).config.attempts ≤ (s.lane l).weigher.attempts + 1) :
    s.sample l x = s.setLane l { s.lane l with weigher := Weigher.idle } := by
  cases hend : ((s.lane l).weigher.samples ++ [x]).any atEnd with
  | true =>
    rw [sample_saturated h hend]
    simp [State.saturatedWindow, gathering, hrun, State.modLane, LaneUnit.endRun]
  | false =>
    obtain ⟨hmoves, hlast⟩ := hw.resolve_left (by simp [hend])
    rw [sample_unstable h hend hmoves, unstableWindow_last (u := gathering (s.lane l) x) hlast]
    simp [State.unstableRun, attempted, gathering, hrun, State.modLane, LaneUnit.endRun]

/-- A sample that changes nothing a rule reads ends its event at once. -/
theorem exec_sample_quiet {s : State} (hs : s.Ready) {l : Lane} {x : BitVec 16} {u : LaneUnit}
    (h : s.sample l x.toInt = s.setLane l u) (hu : watched u = watched (s.lane l)) :
    exec (.converterSample l x) s = .next (s.setLane l u) := event_setLane hs h hu

/-- Settles O46: the sample is dropped, discarded, gathered, or completes a window that leaves the run going or ends it unnoticed. -/
theorem samplesAreDiscardedAndGathered : Obligations.SamplesAreDiscardedAndGathered := by
  refine ⟨?idle, ?discard, ?lastDiscard, ?gather, ?again, ?step, ?autoZero⟩
  case idle => exact fun s l x hs h => event_idle hs (sample_idle h x.toInt)
  case discard =>
    intro s l x hs hon hphase h
    have hdiscard : (s.lane l).discardSample = _ := if_neg (by omega)
    exact exec_sample_quiet hs ((sample_discard hon hphase _).trans (by rw [hdiscard])) rfl
  case lastDiscard =>
    intro s l x hs hon hphase h
    have hdiscard : (s.lane l).discardSample = _ := if_pos (by omega)
    exact exec_sample_quiet hs ((sample_discard hon hphase _).trans (by rw [hdiscard])) rfl
  case gather =>
    intro s l x hs hon hphase h
    exact exec_sample_quiet hs ((sample_window hon hphase _).trans (windowSample_gathers h _)) rfl
  case again =>
    intro s l x hs hon hphase hlen _ hend hmoves hleft
    exact exec_sample_quiet hs ((sample_unstable ⟨hon, hphase, hlen⟩ hend hmoves).trans (unstableWindow_again hleft)) rfl
  case step =>
    intro s l x hs hon hphase hlen hrun hgain hend
    exact exec_sample_quiet hs ((sample_saturated ⟨hon, hphase, hlen⟩ hend).trans (saturatedWindow_steps hrun hgain)) rfl
  case autoZero =>
    intro s l x hs hon hphase hlen hrun h
    exact exec_sample_quiet hs (sample_autoZero_ends ⟨hon, hphase, hlen⟩ hrun h) rfl

/-! ### The ends of the calibration runs (R59 to R64) -/

/-- The lane with its calibration run ended (R61). -/
def calibrated (u : LaneUnit) : LaneUnit := { u with weigher := Weigher.idle, calRunning := false }

/-- What decides which rule of a READY lane is due, calibration running apart. -/
def readyView (u : LaneUnit) : LaneState × HoldSet × Bool × Debounced × Session × Option ContainerRecord :=
  (u.state, u.holds, u.closePending, u.mouth, u.session, u.record)

/-- A READY lane with the mouth clear and no close-pending has no rule due, whatever becomes of its calibration. -/
theorem due_of_readyView {held : Bool} {u v : LaneUnit} (hv : v.due held = false) (hstate : v.state = .ready)
    (hmouth : v.mouth.settled = false) (hclose : v.closePending = false) (h : readyView u = readyView v) : u.due held = false := by
  simp only [readyView, Prod.mk.injEq] at h
  obtain ⟨hs, hholds, hc, hm, hsession, hrecord⟩ := h
  simp only [LaneUnit.due, Bool.or_eq_false_iff] at hv ⊢
  obtain ⟨⟨⟨⟨hhold, -⟩, hvoucher⟩, -⟩, -⟩ := hv
  refine ⟨⟨⟨⟨?_, ?_⟩, ?_⟩, ?_⟩, ?_⟩
  · rwa [LaneUnit.isOpen, hs, hholds]
  · simp [LaneUnit.wakesUnheld, hs, hstate]
  · rwa [LaneUnit.voucherDue, LaneUnit.holdsAccept, LaneUnit.verdict, hsession, hrecord]
  · simp [LaneUnit.closes, hc, hclose]
  · simp [LaneUnit.admits, hm, hmouth]

/-- The deciding sample of a calibration run that ends with a report, on a READY lane with the mouth clear and no close-pending. -/
theorem exec_sample_calibration {s : State} (hs : s.Ready) {l : Lane} {x : BitVec 16} (hmouth : (s.lane l).mouth.settled = false)
    (hclose : (s.lane l).closePending = false) (hstate : (s.lane l).state = .ready) {u : LaneUnit} {r : CalReport}
    (h : s.sample l x.toInt = reporting s l u [.whole (.calibration r)] s.link.heldOut)
    (hu : readyView u = readyView (s.lane l)) :
    ∃ t, exec (.converterSample l x) s = .next t ∧ t.Told (.calibration r) ∧ t.apart = (s.setLane l u.syncShutter).apart := by
  have hrep : Reportable s u [.whole (.calibration r)] s.link.heldOut :=
    ⟨hs, due_of_readyView (due_of_ready hs l) hstate hmouth hclose hu, id, by simp [Made.plain], by simp⟩
  have htold := settle_told _ (reporting_reporting (l := l) hrep) (List.pairwise_singleton _ _) _ List.mem_cons_self
  exact ⟨_, exec_sample_next hs h, htold.resolve_right (fun hd => nomatch hd.1), settle_reporting_apart hrep⟩

section
variable {s : State} {l : Lane}

theorem calibrationDone_eq (ho : s.outbox = []) (u : LaneUnit) (op : CalOperation) (o : CalOutcome) :
    (s.setLane l u).calibrationDone l op o =
      reporting s l (calibrated u) [.whole (.calibration ⟨l, op, o, u.zero, u.span, none⟩)] s.link.heldOut := by
  rw [setLane_eq_reporting s l u ho, State.calibrationDone, reporting_modLane, State.makeCalibration, reporting_makeWhole,
    reporting_lane]
  rfl

/-- R59: a steady window of a ZERO run writes Z. -/
theorem zero_steady {u : LaneUnit} (hrun : u.weigher.run = .zero) :
    (s.setLane l u).steadyWindow l =
      (s.setLane l { u with zero := normalised u.weigher.samples u.weigher.gain }).calibrationDone l .zero .done := by
  simp [State.steadyWindow, hrun, State.modLane]

/-- R60: a steady window of a SPAN run is judged by its net count. -/
theorem span_steady {u : LaneUnit} (hrun : u.weigher.run = .span) {m : Nat} (hm : u.weigher.refMass = some m) :
    (s.setLane l u).steadyWindow l =
      (s.setLane l u).spanSteady l (normalised u.weigher.samples u.weigher.gain - u.zero) m := by
  simp [State.steadyWindow, hrun, hm]

/-- R60: a span in its range is written to K. -/
theorem spanSteady_fits (u : LaneUnit) {n : Int} {m : Nat} (hn : 0 < n) (hlo : 1 ≤ spanOf m n.toNat) (hhi : spanOf m n.toNat ≤ 65535) :
    (s.setLane l u).spanSteady l n m = (s.setLane l { u with span := spanOf m n.toNat }).calibrationDone l .span .done := by
  simp [State.spanSteady, not_le.2 hn, hhi, Nat.ne_of_gt hlo, Nat.one_le_iff_ne_zero, State.modLane]

/-- R60: no span, or one out of range, ends the run with SPAN_RANGE. -/
theorem spanSteady_out (s : State) (l : Lane) {n : Int} {m : Nat} (h : n ≤ 0 ∨ spanOf m n.toNat = 0 ∨ 65535 < spanOf m n.toNat) :
    s.spanSteady l n m = s.calibrationDone l .span .spanRange := by
  unfold State.spanSteady
  split
  · rfl
  · exact if_neg (by omega)

/-- R64: a drift within zero_band is written to Z with no report. -/
theorem autoZero_within {u : LaneUnit} (hrun : u.weigher.run = .autoZero)
    (h : driftOf (normalised u.weigher.samples u.weigher.gain - u.zero) u.span ≤ u.config.zeroBand) :
    (s.setLane l u).steadyWindow l =
      s.setLane l { u with zero := normalised u.weigher.samples u.weigher.gain, weigher := Weigher.idle } := by
  simp [State.steadyWindow, hrun, State.autoZeroSteady, State.modLane, LaneUnit.endRun, h]

/-- R64: a drift beyond zero_band is reported and Z stands. -/
theorem autoZero_beyond (ho : s.outbox = []) {u : LaneUnit} (hrun : u.weigher.run = .autoZero)
    (h : u.config.zeroBand < driftOf (normalised u.weigher.samples u.weigher.gain - u.zero) u.span) :
    (s.setLane l u).steadyWindow l = reporting s l { u with weigher := Weigher.idle }
      [.whole (.calibration ⟨l, .autoZero, .zeroDrift, u.zero, u.span,
        some (driftOf (normalised u.weigher.samples u.weigher.gain - u.zero) u.span)⟩)] s.link.heldOut := by
  rw [setLane_eq_reporting s l u ho, State.steadyWindow, reporting_lane, hrun]
  simp only [State.autoZeroSteady, reporting_lane, reporting_modLane, if_neg (not_le.2 h), State.makeCalibration, reporting_makeWhole]
  rfl

/-- R59, R60: ZERO ends at a saturated window, SPAN at one saturated at gain 1. -/
theorem calibration_saturated {u : LaneUnit} (hrun : u.weigher.run = .zero ∨ u.weigher.run = .span ∧ u.weigher.gain = .g1) :
    (s.setLane l u).saturatedWindow l =
      (s.setLane l u).calibrationDone l (if u.weigher.run = .zero then .zero else .span) .scaleRange := by
  rcases hrun with hrun | ⟨hrun, hgain⟩
  · simp [State.saturatedWindow, hrun]
  · simp [State.saturatedWindow, hrun, hgain, Gain.below]

/-- R59, R60: ZERO and SPAN end UNSTABLE at the last attempt. -/
theorem calibration_unstable {u : LaneUnit} (hrun : u.weigher.run = .zero ∨ u.weigher.run = .span) :
    (s.setLane l u).unstableRun l =
      (s.setLane l u).calibrationDone l (if u.weigher.run = .zero then .zero else .span) .unstable := by
  rcases hrun with hrun | hrun <;> simp [State.unstableRun, hrun]

end

/-- Settles O47: each outcome of the deciding window, and the event that brings its report. -/
theorem calibrationRunsWriteZeroAndSpan : Obligations.CalibrationRunsWriteZeroAndSpan := by
  refine ⟨?zero, ?span, ?spanRange, ?within, ?beyond, ?saturated, ?unstable⟩
  case zero =>
    intro s l x hs hon hphase hlen hmouth hclose hstate hrun hend hsteady
    have hw := (sample_steady ⟨hon, hphase, hlen⟩ hend hsteady).trans (zero_steady (u := gathering (s.lane l) x.toInt) hrun)
    exact exec_sample_calibration hs hmouth hclose hstate (hw.trans (calibrationDone_eq (outbox_of_ready hs) _ _ _)) rfl
  case span =>
    intro s l x m hs hon hphase hlen hmouth hclose hstate hrun hm hend hsteady hn hlo hhi
    have hw := (sample_steady ⟨hon, hphase, hlen⟩ hend hsteady).trans (span_steady (u := gathering (s.lane l) x.toInt) hrun hm)
    exact exec_sample_calibration hs hmouth hclose hstate
      (hw.trans ((spanSteady_fits _ hn hlo hhi).trans (calibrationDone_eq (outbox_of_ready hs) _ _ _))) rfl
  case spanRange =>
    intro s l x m hs hon hphase hlen hmouth hclose hstate hrun hm hend hsteady hout
    have hw := (sample_steady ⟨hon, hphase, hlen⟩ hend hsteady).trans (span_steady (u := gathering (s.lane l) x.toInt) hrun hm)
    exact exec_sample_calibration hs hmouth hclose hstate
      (hw.trans ((spanSteady_out _ _ hout).trans (calibrationDone_eq (outbox_of_ready hs) _ _ _))) rfl
  case within =>
    intro s l x hs hon hphase hlen _ _ _ hrun _ hend hsteady hdrift
    exact exec_sample_quiet hs ((sample_steady ⟨hon, hphase, hlen⟩ hend hsteady).trans
      (autoZero_within (u := gathering (s.lane l) x.toInt) hrun hdrift)) rfl
  case beyond =>
    intro s l x hs hon hphase hlen hmouth hclose hstate hrun _ hend hsteady hdrift
    have hw := (sample_steady ⟨hon, hphase, hlen⟩ hend hsteady).trans
      (autoZero_beyond (outbox_of_ready hs) (u := gathering (s.lane l) x.toInt) hrun hdrift)
    obtain ⟨t, ht, htold, hapart⟩ := exec_sample_calibration hs hmouth hclose hstate hw rfl
    have hlane : (s.lane l).syncShutter = s.lane l := by rw [← syncShutters_lane, hs.2.2]
    exact ⟨t, ht, htold, hapart.trans (congrArg (fun u => (s.setLane l u).apart) (syncShutter_of_watched (v := s.lane l) rfl hlane))⟩
  case saturated =>
    intro s l x hs hon hphase hlen hmouth hclose hstate hrun hend
    have hw := (sample_saturated ⟨hon, hphase, hlen⟩ hend).trans
      (calibration_saturated (u := gathering (s.lane l) x.toInt) hrun)
    exact exec_sample_calibration hs hmouth hclose hstate (hw.trans (calibrationDone_eq (outbox_of_ready hs) _ _ _)) rfl
  case unstable =>
    intro s l x hs hon hphase hlen hmouth hclose hstate hrun hend hmoves hlast
    have hw := (sample_unstable ⟨hon, hphase, hlen⟩ hend hmoves).trans
      ((unstableWindow_last (u := gathering (s.lane l) x.toInt) hlast).trans (calibration_unstable hrun))
    exact exec_sample_calibration hs hmouth hclose hstate (hw.trans (calibrationDone_eq (outbox_of_ready hs) _ _ _)) rfl

/-! ### The verdict of the deciding window (R56, R84 to R93) -/

/-- The record with the result of its CONTAINER run. -/
def weighedRecord (r : ContainerRecord) (w : Weighing) (g : Gain) : ContainerRecord := { r with weighing := some w, gain := some g }

/-- The record r of a lane whose window is completed steady by the sample x (R54, R55). -/
def steadyRecord (u : LaneUnit) (x : Int) (r : ContainerRecord) : ContainerRecord :=
  { r with
    weighing := some (.weight (weightOf ((u.weigher.samples ++ [x]).sum * (16 / u.weigher.gain.factor : Nat) - u.zero) u.span))
    gain := some u.weigher.gain }

/-- The lane with its CONTAINER run ended and its record as given. -/
def weighed (u : LaneUnit) (r : ContainerRecord) : LaneUnit := { u with weigher := Weigher.idle, record := some r }

/-- The lane whose record r is rejected, on its way into RETURN. -/
def turnedBack (u : LaneUnit) (r : ContainerRecord) (reason : Reason) : LaneUnit :=
  { u with
    state := .returning, faultCause := none, mouthOpen := false, returnTravel := 0
    belt := if u.mouth.settled then .off else .reverse
    record := some { r with verdict := some (.reject reason) }
    session := { u.session with
      rejected := if u.session.state = .opened then satSucc 65535 u.session.rejected else u.session.rejected } }

/-- At rest, lane l weighs its container, whose record r is still to be judged, and its next sample completes the window. -/
structure Deciding (s : State) (l : Lane) (r : ContainerRecord) : Prop where
  ready       : s.Ready
  completes   : Completes (s.lane l)
  weighs      : (s.lane l).state = .weigh
  run         : (s.lane l).weigher.run = .container
  record      : (s.lane l).record = some r
  verdict     : r.verdict = none
  destination : r.destination = none

section
variable {s : State} {l : Lane} {u : LaneUnit} {r : ContainerRecord}

theorem containerDone_eq (hr : u.record = some r) (w : Weighing) (g : Gain) :
    (s.setLane l u).containerDone l w g = (s.setLane l (weighed u (weighedRecord r w g))).judge l := by
  simp [State.containerDone, State.modRecord, State.modLane, LaneUnit.endRun, weighed, weighedRecord, hr]

/-- R93: a reject is counted and reported, and the lane enters RETURN. -/
theorem rejectRecord_eq (ho : s.outbox = []) (hu : u.state ≠ .returning) (hr : u.record = some r) (hd : r.destination = none)
    (reason : Reason) (cls : Option ClassId) :
    (s.setLane l u).rejectRecord l reason cls =
      reporting s l (turnedBack u r reason) [.whole (r.report (.reject reason) cls), .lane l] s.link.heldOut := by
  have hrec : ({ r with verdict := some (.reject reason), destination := none } : ContainerRecord) =
      { r with verdict := some (.reject reason) } := by rw [← hd]
  rw [setLane_eq_reporting s l u ho]
  simp only [State.rejectRecord, State.tellReject, State.enterReturn, State.modRecord, reporting_modLane, reporting_lane,
    reporting_makeWhole, hr, Option.map_some, Option.bind_some, hd, State.release, List.nil_append]
  rw [reporting_setLaneState _ _ _ _ _ (by simpa using hu) (by simp), hrec, rejectCounted_eq]
  rfl

/-- The lane turned back from WEIGH has no rule due. -/
theorem due_turnedBack {held : Bool} {v : LaneUnit} (hv : v.due held = false) (hstate : v.state = .weigh) (hr : v.record = some r)
    (hverdict : r.verdict = none) (r' : ContainerRecord) (reason : Reason) :
    (turnedBack (weighed v r') r' reason).due held = false := by
  refine due_of_stopped hv (isOpen_of_not_closed (by simp [hstate])) (Or.inl rfl) rfl rfl rfl rfl ?_
  simp [LaneUnit.holdsAccept, LaneUnit.verdict, turnedBack, hr, hverdict]

/-- The deciding sample of a CONTAINER run that ends in a reject. -/
theorem Deciding.exec_reject (hdec : Deciding s l r) {x : BitVec 16} {r' : ContainerRecord} (hd : r'.destination = none)
    {reason : Reason} {cls : Option ClassId}
    (h : s.sample l x.toInt = (s.setLane l (weighed (s.lane l) r')).rejectRecord l reason cls) :
    ∃ t, exec (.converterSample l x) s = .next t ∧ t.ToldOrLost (r'.report (.reject reason) cls) ∧ t.Told (.lane (t.laneReport l)) ∧
      t.apart = (s.setLane l (turnedBack (weighed (s.lane l) r') r' reason).syncShutter).apart := by
  have hs := hdec.ready
  have hreturning : (weighed (s.lane l) r').state ≠ .returning := by simp [weighed, hdec.weighs]
  have hdue := due_turnedBack (due_of_ready hs l) hdec.weighs hdec.record hdec.verdict r' reason
  rw [rejectRecord_eq (outbox_of_ready hs) hreturning rfl hd] at h
  have hrep : Reportable s (turnedBack (weighed (s.lane l) r') r' reason) [.whole (r'.report (.reject reason) cls), .lane l]
      s.link.heldOut := ⟨hs, hdue, id, by simp [Made.plain], by simp⟩
  have hsubjects : ∀ t : State, [Made.whole (r'.report (.reject reason) cls), .lane l].Pairwise
      (fun a b => ∀ x, (t.reportOf b).treatment = .coalesced x → (t.reportOf a).isOf x = false) :=
    fun t => List.pairwise_pair.2 fun _ _ => rfl
  exact ⟨_, exec_sample_next hs h, settle_toldOrLost _ (reporting_reporting hrep) (hsubjects _) (.whole _) List.mem_cons_self rfl,
    settle_reporting_told_lane hrep (by simp) (hsubjects _), settle_reporting_apart hrep⟩

/-! ### The result of the window (R52, R53, R56) -/

theorem weighed_gathering (u : LaneUnit) (x : Int) (r : ContainerRecord) : weighed (gathering u x) r = weighed u r := rfl

theorem weighed_attempted (u : LaneUnit) (r : ContainerRecord) : weighed (attempted u) r = weighed u r := rfl

/-- R56: a steady window of a CONTAINER run gives the weight and the gain. -/
theorem container_steady (hrun : u.weigher.run = .container) :
    (s.setLane l u).steadyWindow l = (s.setLane l u).containerDone l
      (.weight (weightOf (normalised u.weigher.samples u.weigher.gain - u.zero) u.span)) u.weigher.gain := by
  simp only [State.steadyWindow, State.setLane_lane_self, hrun]

/-- R56: a CONTAINER run ended by its attempts gives UNSTABLE. -/
theorem container_unstable (hrun : u.weigher.run = .container) :
    (s.setLane l u).unstableRun l = (s.setLane l u).containerDone l .unstable u.weigher.gain := by
  simp only [State.unstableRun, State.setLane_lane_self, hrun]

/-- R53, R56: at the last attempt a CONTAINER run gives UNSTABLE. -/
theorem container_unstableWindow (hrun : u.weigher.run = .container) (hr : u.record = some r)
    (hlast : u.config.attempts ≤ u.weigher.attempts + 1) :
    (s.setLane l u).unstableWindow l = (s.setLane l (weighed u (weighedRecord r .unstable u.weigher.gain))).judge l := by
  rw [unstableWindow_last hlast, container_unstable (u := attempted u) hrun, containerDone_eq (u := attempted u) hr, weighed_attempted]
  rfl

/-- R56: the steady sixteenth sample of a CONTAINER run writes the weight and the gain, and the record is judged. -/
theorem Deciding.sample_steady (hdec : Deciding s l r) {x : Int} (hend : ((s.lane l).weigher.samples ++ [x]).any atEnd = false)
    (hsteady : spreadOf ((s.lane l).weigher.samples ++ [x]) ≤
      stabilityLimit (s.lane l).config.stabilityLimit (s.lane l).weigher.gain) :
    s.sample l x = (s.setLane l (weighed (s.lane l) (steadyRecord (s.lane l) x r))).judge l := by
  rw [Weighing.sample_steady hdec.completes hend hsteady, container_steady (u := gathering (s.lane l) x) hdec.run,
    containerDone_eq (u := gathering (s.lane l) x) hdec.record, weighed_gathering]
  simp only [gathering, normalised, weighedRecord, steadyRecord]

/-- R53, R56: a CONTAINER run unstable at its last attempt is judged UNSTABLE. -/
theorem Deciding.sample_unstable (hdec : Deciding s l r) {x : Int} (hend : ((s.lane l).weigher.samples ++ [x]).any atEnd = false)
    (hmoves : (stabilityLimit (s.lane l).config.stabilityLimit (s.lane l).weigher.gain : Int) <
      spreadOf ((s.lane l).weigher.samples ++ [x]))
    (hlast : (s.lane l).config.attempts ≤ (s.lane l).weigher.attempts + 1) :
    s.sample l x = (s.setLane l (weighed (s.lane l) (weighedRecord r .unstable (s.lane l).weigher.gain))).judge l := by
  rw [Weighing.sample_unstable hdec.completes hend hmoves,
    container_unstableWindow (u := gathering (s.lane l) x) hdec.run hdec.record hlast, weighed_gathering]
  simp only [gathering]

theorem containerSaturated_of_gain {u : LaneUnit} (hrun : u.weigher.run = .container) (hgain : u.weigher.gain = .g1) :
    (s.setLane l u).saturatedWindow l = (s.setLane l u).containerSaturated l := by
  simp [State.saturatedWindow, hrun, hgain, Gain.below]

/-- R52, R56: a CONTAINER run saturated at gain 1 with no sample at the lower end is judged OVERWEIGHT. -/
theorem Deciding.sample_overweight (hdec : Deciding s l r) {x : Int} (hgain : (s.lane l).weigher.gain = .g1)
    (hend : ((s.lane l).weigher.samples ++ [x]).any atEnd = true)
    (hlow : ((s.lane l).weigher.samples ++ [x]).any (· == -32768) = false) :
    s.sample l x = (s.setLane l (weighed (s.lane l) (weighedRecord r .overweight .g1))).judge l := by
  have hlow' : (gathering (s.lane l) x).weigher.samples.any (· == -32768) = false := hlow
  rw [sample_saturated hdec.completes hend, containerSaturated_of_gain (u := gathering (s.lane l) x) hdec.run hgain,
    State.containerSaturated, State.setLane_lane_self, hlow', if_neg Bool.false_ne_true,
    containerDone_eq (u := gathering (s.lane l) x) hdec.record, weighed_gathering]

/-- R52: a CONTAINER run saturated at gain 1 with a sample at the lower end faults the lane. -/
theorem Deciding.sample_negative (hdec : Deciding s l r) {x : Int} (hgain : (s.lane l).weigher.gain = .g1)
    (hend : ((s.lane l).weigher.samples ++ [x]).any atEnd = true)
    (hlow : ((s.lane l).weigher.samples ++ [x]).any (· == -32768) = true) :
    s.sample l x = (s.setLane l (gathering (s.lane l) x)).laneFault l .scaleNegative := by
  have hlow' : (gathering (s.lane l) x).weigher.samples.any (· == -32768) = true := hlow
  rw [sample_saturated hdec.completes hend, containerSaturated_of_gain (u := gathering (s.lane l) x) hdec.run hgain,
    State.containerSaturated, State.setLane_lane_self, if_pos hlow']

/-- The lane weighed, in FAULT with its run ended and its converter on (R21, R24). -/
def weighFaulted (u : LaneUnit) (cause : LaneFault) : LaneUnit :=
  { u with
    state := .fault, faultCause := some cause, belt := .off, mouthOpen := false, converterOn := true
    coldStart := u.coldStart || !u.converterOn, weigher := Weigher.idle }

theorem laneFault_weigh (ho : s.outbox = []) (hu : u.state = .weigh) (cause : LaneFault) :
    (s.setLane l u).laneFault l cause = reporting s l (weighFaulted u cause) [.lane l] s.link.heldOut := by
  have hfault : { u.endRun.powerConverter with belt := .off, faultCause := some cause, mouthOpen := false, state := .fault } =
      weighFaulted u cause := by
    cases hc : u.converterOn <;> simp [LaneUnit.powerConverter, LaneUnit.endRun, weighFaulted, hc]
  have hstate : u.endRun.powerConverter.state = .weigh := by
    unfold LaneUnit.powerConverter
    split <;> exact hu
  rw [setLane_eq_reporting s l u ho, State.laneFault, State.endLeftState, reporting_lane, hu]
  dsimp only
  rw [reporting_modLane, reporting_modLane, reporting_setLaneState _ _ _ _ _ (by simp [hstate]) (by simp), ← hfault]
  rfl

/-- The deciding sample of a CONTAINER run that faults the lane. -/
theorem Deciding.exec_fault (hdec : Deciding s l r) {x : BitVec 16}
    (h : s.sample l x.toInt = (s.setLane l (gathering (s.lane l) x.toInt)).laneFault l .scaleNegative) :
    ∃ t, exec (.converterSample l x) s = .next t ∧ t.Told (.lane (t.laneReport l)) ∧
      t.apart = (s.setLane l (weighFaulted (s.lane l) .scaleNegative).syncShutter).apart := by
  have hs := hdec.ready
  have hdue : (weighFaulted (s.lane l) .scaleNegative).due s.conveyorHeld = false :=
    due_of_stopped (due_of_ready hs l) (isOpen_of_not_closed (by simp [hdec.weighs])) (Or.inr rfl)
      (by simp [weighFaulted, hdec.record]) rfl rfl rfl rfl
  have hrep : Reportable s (weighFaulted (s.lane l) .scaleNegative) [.lane l] s.link.heldOut :=
    ⟨hs, hdue, id, by simp [Made.plain], by simp⟩
  have hfault := h.trans (laneFault_weigh (u := gathering (s.lane l) x.toInt) (outbox_of_ready hs) hdec.weighs .scaleNegative)
  exact ⟨_, exec_sample_next hs hfault, settle_reporting_told_lane hrep List.mem_cons_self (List.pairwise_singleton _ _),
    settle_reporting_apart hrep⟩

/-! ### The checks in their order (R84 to R91) -/

theorem judge_overweight (hr : (s.lane l).record = some r) (h : r.weighing = some .overweight) :
    s.judge l = s.rejectRecord l .overweight none := by
  simp only [State.judge, hr, h]

theorem judge_unstable (hr : (s.lane l).record = some r) (h : r.weighing = some .unstable) :
    s.judge l = s.rejectRecord l .unstable none := by
  simp only [State.judge, hr, h]

theorem judge_badCode (hr : (s.lane l).record = some r) {w : Nat} (hw : r.weighing = some (.weight w)) {reason : Reason}
    (h : r.goodCode = .error reason) : s.judge l = s.rejectRecord l reason none := by
  simp only [State.judge, hr, hw, h]

theorem judge_goodCode (hr : (s.lane l).record = some r) {w : Nat} (hw : r.weighing = some (.weight w)) {code : Code}
    (h : r.goodCode = .ok code) : s.judge l = s.judgeCode l r code := by
  simp only [State.judge, hr, hw, h]

theorem judgeCode_excluded {code : Code} (h : s.lookup code = .excluded) : s.judgeCode l r code = s.rejectRecord l .excluded none := by
  simp only [State.judgeCode, h]

theorem judgeCode_unknown {code : Code} (h : s.lookup code = .unknown) (hq : (s.lane l).config.queryEnabled = false) :
    s.judgeCode l r code = s.rejectRecord l .unknown none := by
  simp [State.judgeCode, h, hq]

theorem judgeCode_query {code : Code} (h : s.lookup code = .unknown) (hq : (s.lane l).config.queryEnabled = true) :
    s.judgeCode l r code = s.openQuery l r.seq code := by
  simp [State.judgeCode, h, hq]

theorem judgeCode_found {code : Code} {c : ClassId} (h : s.lookup code = .found c) : s.judgeCode l r code = s.judgeClass l c := by
  simp only [State.judgeCode, h]

theorem judgeClass_reason (hr : (s.lane l).record = some r) {c : ClassId} {reason : Reason} (h : s.classReason l r c = some reason) :
    s.judgeClass l c = s.rejectRecord l reason (some c) := by
  simp only [State.judgeClass, hr, h]

theorem judgeClass_noBin (hr : (s.lane l).record = some r) {c : ClassId} (h : s.classReason l r c = none)
    (hbin : s.chooseBin (s.classAt c).material (s.classAt c).preferred = none) :
    s.judgeClass l c = s.rejectRecord l .noBin (some c) := by
  simp only [State.judgeClass, hr, h, hbin]

theorem judgeClass_accepts (hr : (s.lane l).record = some r) {c : ClassId} (h : s.classReason l r c = none) {b : BinId}
    (hbin : s.chooseBin (s.classAt c).material (s.classAt c).preferred = some b) : s.judgeClass l c = s.acceptRecord l c b := by
  simp only [State.judgeClass, hr, h, hbin]

/-- The checks of a class read the lane's session and caps, not its Weigher or its record. -/
theorem classReason_weighed (s : State) (l : Lane) (r' r : ContainerRecord) (c : ClassId) :
    (s.setLane l (weighed (s.lane l) r')).classReason l r c = s.classReason l r c := by
  simp [State.classReason, weighed]

/-! The checks of the lane l weighed, with the record r' still to be judged. -/

variable {r' : ContainerRecord}

theorem record_weighed : ((s.setLane l (weighed (s.lane l) r')).lane l).record = some r' := by
  rw [State.setLane_lane_self]
  rfl

theorem config_weighed : ((s.setLane l (weighed (s.lane l) r')).lane l).config = (s.lane l).config := by
  rw [State.setLane_lane_self]
  rfl

variable {w : Nat} (hw : r'.weighing = some (.weight w))
include hw

theorem weighed_badCode {reason : Reason} (h : r'.goodCode = .error reason) :
    (s.setLane l (weighed (s.lane l) r')).judge l = (s.setLane l (weighed (s.lane l) r')).rejectRecord l reason none :=
  judge_badCode record_weighed hw h

variable {code : Code} (hgood : r'.goodCode = .ok code)
include hgood

theorem weighed_excluded (h : s.lookup code = .excluded) :
    (s.setLane l (weighed (s.lane l) r')).judge l = (s.setLane l (weighed (s.lane l) r')).rejectRecord l .excluded none :=
  (judge_goodCode record_weighed hw hgood).trans (judgeCode_excluded h)

theorem weighed_unknown (h : s.lookup code = .unknown) (hq : (s.lane l).config.queryEnabled = false) :
    (s.setLane l (weighed (s.lane l) r')).judge l = (s.setLane l (weighed (s.lane l) r')).rejectRecord l .unknown none :=
  (judge_goodCode record_weighed hw hgood).trans (judgeCode_unknown h (by rwa [config_weighed]))

theorem weighed_query (h : s.lookup code = .unknown) (hq : (s.lane l).config.queryEnabled = true) :
    (s.setLane l (weighed (s.lane l) r')).judge l = (s.setLane l (weighed (s.lane l) r')).openQuery l r'.seq code :=
  (judge_goodCode record_weighed hw hgood).trans (judgeCode_query h (by rwa [config_weighed]))

variable {c : ClassId} (h : s.lookup code = .found c)
include h

theorem weighed_found : (s.setLane l (weighed (s.lane l) r')).judge l = (s.setLane l (weighed (s.lane l) r')).judgeClass l c := by
  have hlookup : (s.setLane l (weighed (s.lane l) r')).lookup code = .found c := h
  exact (judge_goodCode record_weighed hw hgood).trans (judgeCode_found hlookup)

theorem weighed_classFails {reason : Reason} (hreason : s.classReason l r' c = some reason) :
    (s.setLane l (weighed (s.lane l) r')).judge l = (s.setLane l (weighed (s.lane l) r')).rejectRecord l reason (some c) := by
  have hreason' := (classReason_weighed s l r' r' c).trans hreason
  exact (weighed_found hw hgood h).trans (judgeClass_reason record_weighed hreason')

theorem weighed_noBin (hpass : s.classReason l r' c = none)
    (hbin : s.chooseBin (s.classAt c).material (s.classAt c).preferred = none) :
    (s.setLane l (weighed (s.lane l) r')).judge l = (s.setLane l (weighed (s.lane l) r')).rejectRecord l .noBin (some c) := by
  have hpass' := (classReason_weighed s l r' r' c).trans hpass
  exact (weighed_found hw hgood h).trans (judgeClass_noBin record_weighed hpass' hbin)

theorem weighed_accepts (hpass : s.classReason l r' c = none) {b : BinId}
    (hbin : s.chooseBin (s.classAt c).material (s.classAt c).preferred = some b) :
    (s.setLane l (weighed (s.lane l) r')).judge l = (s.setLane l (weighed (s.lane l) r')).acceptRecord l c b := by
  have hpass' := (classReason_weighed s l r' r' c).trans hpass
  exact (weighed_found hw hgood h).trans (judgeClass_accepts record_weighed hpass' hbin)

end

/-! ### A query opened at the verdict (R88, R95, R96) -/

theorem reportOf_arranged_eq (s : State) : (s.arranged s.outbox).2.reportOf = s.reportOf := funext (reportOf_arranged s s.outbox)

/-- The state between the offering of the reports and the acts of their owners. -/
def offeredState (s : State) : State := { (s.arranged s.outbox).2 with link := s.offered, outbox := [] }

/-- A flush: the reports offered in a free order, and then the owners of waiting reports in turn. -/
theorem flush_eq (s : State) : s.flush = s.outbox.foldl State.ownerActs (offeredState s) := by
  have hlink : (s.arranged s.outbox).2.link = s.link := (arranged_same s s.outbox).2.2.2.2
  simp only [State.flush, offeredState, State.offered, reportOf_arranged_eq, hlink]

/-- Offering reports changes only what is on its way to the host. -/
theorem offeredState_apart (s : State) : (offeredState s).apart = s.apart := by
  obtain ⟨htaking, hreceiver, herrors, hoverruns, hstate, hsupervision⟩ := offered_same s
  have hintake : s.offered.intake = s.link.intake := congrArg Prod.fst htaking
  have hlink : ({ s.offered with replySlot := none, transmitter := none, queue := [], heldOut := [], lost := false } : LinkPort) =
      { s.link with replySlot := none, transmitter := none, queue := [], heldOut := [], lost := false } := by
    simp only [hintake, hreceiver, herrors, hoverruns, hstate, hsupervision]
  rw [State.apart, State.apart, offeredState]
  dsimp only
  rw [hlink]
  rcases arranged_state s s.outbox with h | h <;> rw [h]
  unfold State.draw
  split <;> rfl

theorem begin_apart (s : State) : State.apart { s with link := s.link.begin?.getD s.link } = s.apart := by
  unfold LinkPort.begin?
  split <;> rfl

/-- A frame begun leaves the held-out reports, and leaves told what was queued or held out. -/
theorem begin_told {s : State} {r : Report} (h : s.link.has r) : State.Told { s with link := s.link.begin?.getD s.link } r := by
  unfold LinkPort.begin?
  split
  · exact h.elim Or.inl fun h => Or.inr (Or.inl h)
  · exact h.elim Or.inl fun h => Or.inr (Or.inl h)
  · next q rest _ _ hq =>
    rcases h with h | h
    · rw [hq] at h
      rcases List.mem_cons.1 h with rfl | h
      · right; right
        cases s.link.lost
        · exact Or.inl rfl
        · exact Or.inr rfl
      · exact Or.inl h
    · exact Or.inr (Or.inl h)
  · exact h.elim Or.inl fun h => Or.inr (Or.inl h)

theorem begin_heldOut (k : LinkPort) : (k.begin?.getD k).heldOut = k.heldOut := by
  unfold LinkPort.begin?
  split <;> rfl

/-- What an offer does to the held-out reports: nothing, the report held out last, or the report in the place of its subject's. -/
theorem offer_heldOut_cases (k : LinkPort) (r : Report) :
    (k.offer r).heldOut = k.heldOut ∨ (k.offer r).heldOut = k.heldOut ++ [r] ∨
      ∃ x, r.treatment = .coalesced x ∧ (k.offer r).heldOut = replaceSubject x r k.heldOut := by
  unfold LinkPort.offer
  split
  · split <;> exact Or.inl rfl
  · split
    · exact Or.inl rfl
    · exact Or.inr (Or.inl rfl)
  · next x hx =>
    split
    · exact Or.inl rfl
    · split
      · exact Or.inr (Or.inr ⟨x, hx, rfl⟩)
      · split
        · exact Or.inl rfl
        · exact Or.inr (Or.inl rfl)

/-- The CODE_QUERY report q of lane l is held out, or none of that lane is. -/
def HeldOrNone (l : Lane) (q : Report) (k : LinkPort) : Prop := q ∈ k.heldOut ∨ k.heldOut.any (·.isCodeQueryOf l) = false

/-- A CODE_QUERY enters a queue with room, behind which nothing is held out, and is held out where there is none. -/
theorem offer_codeQuery (k : LinkPort) (hroom : k.hasRoom = true → k.heldOut = []) (l : Lane) (seq : Nat) (code : Code) :
    HeldOrNone l (.codeQuery l seq code) (k.offer (.codeQuery l seq code)) := by
  unfold HeldOrNone
  cases hr : k.hasRoom with
  | true => simp [LinkPort.offer, Report.treatment, hr, LinkPort.enqueue, hroom hr]
  | false => simp [LinkPort.offer, Report.treatment, hr, LinkPort.holdOut]

theorem offer_lane_heldOrNone {k : LinkPort} {l : Lane} {seq : Nat} {code : Code} (h : HeldOrNone l (.codeQuery l seq code) k)
    (r : LaneReport) : HeldOrNone l (.codeQuery l seq code) (k.offer (.lane r)) := by
  unfold HeldOrNone at *
  rcases offer_heldOut_cases k (.lane r) with e | e | ⟨x, -, e⟩ <;> rw [e]
  · exact h
  · rcases h with h | h
    · exact Or.inl (List.mem_append_left _ h)
    · right
      rw [List.any_append, h]
      rfl
  · rcases h with h | h
    · exact Or.inl (replaceSubject_keeps x _ _ _ h rfl)
    · right
      rw [List.any_eq_false] at h ⊢
      intro p hp
      obtain ⟨p', hp', rfl⟩ := List.mem_map.1 hp
      split
      · simp [Report.isCodeQueryOf]
      · exact h p' hp'

/-- No rule reads what `apart` sets aside but the room of the queue. -/
theorem quiet_of_apart {s t : State} (h : s.Quiet) (e : t.apart = s.apart) (hroom : t.link.hasRoom = true → t.link.heldOut = []) :
    t.Quiet := by
  have hcorner : t.corner = s.corner := (congrArg State.corner e :)
  have hcatch : t.catchCount = s.catchCount := (congrArg State.catchCount e :)
  have htray : t.trayFull = s.trayFull := by rw [State.trayFull, hcorner, hcatch]; rfl
  exact quiet_congr h (congrArg State.lanes e :) (congrArg State.bins e :) (congrArg State.requests e :) (congrArg State.pocket e :)
    (congrArg State.pocketBeam e :) (congrArg State.conveyor e :) (congrArg State.ring e :) htray hroom

/-- With nothing else due and no VOUCHER among them, the reports made are offered. -/
theorem settle_flush {s : State} (hq : s.Quiet) (ht : s.NoTake) (ho : s.outbox ≠ []) (hv : s.outbox.any Made.isVoucher = false) :
    settle s = settle s.flush := by
  have hflush : s.dueFlush = some s.flush := by
    rw [State.dueFlush, if_neg (by simp [ho]), if_neg (by simp [takesReporting_noTake ht]), if_neg (by simp [hv])]
  exact settle_fire (by rw [fire_of_quiet hq, hflush]; rfl)

theorem openQuery_eq {s : State} {l : Lane} {u : LaneUnit} (ho : s.outbox = []) (hu : u.state ≠ .query) (seq : Nat) (code : Code) :
    (s.setLane l u).openQuery l seq code = reporting s l { u with state := .query, query := .waitingRoom seq code }
      [.lane l, .codeQuery l] s.link.heldOut := by
  rw [setLane_eq_reporting s l u ho, State.openQuery, reporting_modLane, reporting_setLaneState _ _ _ _ _ (by simpa using hu) (by simp)]
  rfl

/-- The lane after its CODE_QUERY has been offered: the query is OPEN where the report entered the queue, else it waits for room (R95,
R96). -/
def asked (u : LaneUnit) (seq : Nat) (code : Code) (timeout : Nat) (waits : Bool) : LaneUnit :=
  { u with query := if waits then .waitingRoom seq code else .opened seq code timeout }

theorem reportOf_codeQuery {q : State} {l : Lane} {seq : Nat} {code : Code} (h : (q.lane l).query = .waitingRoom seq code) :
    q.reportOf (.codeQuery l) = .codeQuery l seq code := by
  rw [State.reportOf, State.codeQueryReport, h]
  rfl

section
variable {q : State} {l : Lane} {seq : Nat} {code : Code} (hout : q.outbox = [.lane l, .codeQuery l])
  (hquery : (q.lane l).query = .waitingRoom seq code)
include hout hquery

theorem flush_asking :
    q.flush = (offeredState q).setLane l
      (asked (q.lane l) seq code q.corner.queryTimeout (q.offered.heldOut.any (·.isCodeQueryOf l))) := by
  have hlane : (offeredState q).lane l = q.lane l := (congrArg (fun t : State => t.lane l) (offeredState_apart q) :)
  have hcorner : (offeredState q).corner = q.corner := (congrArg State.corner (offeredState_apart q) :)
  have hflush : q.flush = if q.offered.heldOut.any (·.isCodeQueryOf l) then offeredState q else (offeredState q).codeQueryQueued l := by
    rw [flush_eq, hout]
    rfl
  rw [hflush]
  cases q.offered.heldOut.any (·.isCodeQueryOf l) with
  | true =>
    have hasked : asked (q.lane l) seq code q.corner.queryTimeout true = (offeredState q).lane l := by
      simp [asked, hlane, ← hquery]
    rw [if_pos rfl, hasked, setLane_lane_same]
  | false => simp [State.codeQueryQueued, State.modLane, hlane, hcorner, hquery, asked]

/-- Where the CODE_QUERY of a lane was offered beside its LANE report, it is queued or held out, and no older one of the lane alone is
held out. -/
theorem offered_asking (hroom : q.link.hasRoom = true → q.link.heldOut = []) :
    q.offered.has (.codeQuery l seq code) ∧ HeldOrNone l (.codeQuery l seq code) q.offered := by
  have hr := reportOf_codeQuery hquery
  have hperm : (q.arranged q.outbox).1.Perm [.lane l, .codeQuery l] := hout ▸ arranged_perm q q.outbox
  rw [State.offered]
  rcases List.perm_pair.1 hperm with e | e <;> rw [e, List.foldl_cons, List.foldl_cons, List.foldl_nil, hr]
  · refine ⟨(offer_has _ _).resolve_right (fun h => nomatch h.1), offer_codeQuery _ ?_ l seq code⟩
    exact (offer_room _ _ hroom).1
  · refine ⟨offer_keeps _ _ _ ((offer_has _ _).resolve_right (fun h => nomatch h.1)) (fun _ _ => rfl), ?_⟩
    exact offer_lane_heldOrNone (offer_codeQuery _ hroom l seq code) _

end

/-- Two reports offered by an idle transmitter find room (R188). -/
theorem offered_heldOut_of_idle {s q : State} (hs : s.Ready) (hlink : q.link = s.link) (hfew : q.outbox.length ≤ 32)
    (ht : q.offered.transmitter = none) : q.offered.heldOut = [] := by
  have htx : s.link.transmitter = none := by
    rw [← hlink, ← (offers_slots q.reportOf (q.arranged q.outbox).1 q.link).2]
    exact ht
  refine offers_fit q.reportOf _ q.link (by rw [hlink, heldOut_of_idle hs htx]) ?_
  rw [hlink, queue_of_idle hs htx, (arranged_perm q q.outbox).length_eq, List.length_nil, Nat.zero_add]
  exact hfew

/-- An event at which lane l comes to ask the host: it is OPEN with its CODE_QUERY told, or waits for room with it held out. -/
theorem settle_asking {s : State} (hs : s.Ready) {l : Lane} {u : LaneUnit} {seq : Nat} {code : Code} (hu : u.due s.conveyorHeld = false)
    (hquery : u.query = .waitingRoom seq code) :
    ∃ t waits, settle (reporting s l u [.lane l, .codeQuery l] s.link.heldOut) = t ∧
      t.apart = (s.setLane l (asked u seq code s.corner.queryTimeout waits).syncShutter).apart ∧
      (waits = true → .codeQuery l seq code ∈ t.link.heldOut) ∧ t.Told (.codeQuery l seq code) := by
  obtain ⟨hquiet, -, -, -⟩ := (rest_iff s).1 hs.2.1
  generalize hq : reporting s l u [.lane l, .codeQuery l] s.link.heldOut = q
  have hlane : q.lane l = u := by rw [← hq, reporting_lane]
  have hout : q.outbox = [.lane l, .codeQuery l] := by rw [← hq]; rfl
  have hlink : q.link = s.link := by rw [← hq]; rfl
  have hcorner : q.corner = s.corner := by rw [← hq]; rfl
  have hapart : q.apart = s.apart.setLane l u := by rw [← hq]; rfl
  have hqquiet : q.Quiet := quiet_of_apart (quiet_setLane hquiet l u hu) hapart (by rw [hlink]; exact hquiet.held)
  have hqtake : q.NoTake := noTake_of_taking (noTake_of_rest s hs.2.1) (by rw [hlink])
  obtain ⟨hhas, hheld⟩ := offered_asking hout (hlane ▸ hquery) hqquiet.held
  have hflush := flush_asking hout (hlane ▸ hquery)
  rw [hlane, hcorner] at hflush
  generalize hw : q.offered.heldOut.any (·.isCodeQueryOf l) = waits at hflush
  generalize hv : asked u seq code s.corner.queryTimeout waits = v at hflush
  have hvdue : v.due s.conveyorHeld = false := (due_of_watched (by rw [← hv]; rfl) _).trans hu
  have hfapart : q.flush.apart = (s.setLane l v).apart := by
    calc q.flush.apart = (offeredState q).apart.setLane l v := by rw [hflush]; rfl
      _ = (s.setLane l v).apart := by rw [offeredState_apart, hapart, setLane_setLane]; rfl
  have hflink : q.flush.link = q.offered := by rw [hflush]; rfl
  have hfout : q.flush.outbox = [] := by rw [hflush]; rfl
  have hfquiet : q.flush.Quiet := quiet_of_apart (quiet_setLane hquiet l v hvdue) hfapart (by rw [hflink]; exact offered_room q hqquiet)
  have hftake : q.flush.NoTake := noTake_of_taking hqtake (by rw [hflink]; exact (offered_same q).1)
  have hfidle : q.flush.link.transmitter = none → q.flush.link.heldOut = [] := by
    rw [hflink]
    exact offered_heldOut_of_idle hs hlink (by simp [hout])
  have hsettle := (settle_flush hqquiet hqtake (by simp [hout]) (by simp [hout, Made.isVoucher])).trans
    (settle_offered hfquiet hfout hftake hfidle)
  refine ⟨_, waits, hsettle, ?_, fun hwaits => ?_, ?_⟩
  · calc _ = (State.apart { q.flush with link := q.flush.link.begin?.getD q.flush.link }).syncShutters := rfl
      _ = (s.setLane l v).syncShutters.apart := by rw [begin_apart, hfapart]; rfl
      _ = _ := by rw [syncShutters_setLane, hs.2.2, hv]
  · show _ ∈ (q.flush.link.begin?.getD q.flush.link).heldOut
    rw [begin_heldOut, hflink]
    exact hheld.resolve_right (by simp [hw, hwaits])
  · exact begin_told (s := q.flush) (by rw [hflink]; exact hhas)

/-! ### A container accepted waits for the pocket (R91, R92, R104, R108) -/

/-- Lane l holds the record r and waits for the pocket in the list, or has been granted it. -/
def Waits (l : Lane) (r : ContainerRecord) (s : State) : Prop :=
  (s.lane l).record = some r ∧
    ((s.lane l).state = .hold ∧ l ∈ s.requests ∨ (s.lane l).state = .handoff ∧ s.pocket.grantedTo l = true)

/-- What decides whether a lane waits for the pocket is as it was. -/
structure Unmoved (s t : State) : Prop where
  state    : ∀ l, (t.lane l).state = (s.lane l).state
  record   : ∀ l, (t.lane l).record = (s.lane l).record
  requests : t.requests = s.requests
  pocket   : t.pocket = s.pocket

theorem Waits.of_unmoved {l : Lane} {r : ContainerRecord} {s t : State} (h : Waits l r s) (hm : Unmoved s t) : Waits l r t := by
  rw [Waits, hm.state, hm.record, hm.requests, hm.pocket]
  exact h

theorem Unmoved.of_eq {s t : State} (hl : t.lanes = s.lanes) (hr : t.requests = s.requests) (hp : t.pocket = s.pocket) :
    Unmoved s t :=
  ⟨fun l => by rw [State.lane, State.lane, hl], fun l => by rw [State.lane, State.lane, hl], hr, hp⟩

theorem Unmoved.refl (s : State) : Unmoved s s := .of_eq rfl rfl rfl

theorem Unmoved.trans {s t u : State} (h : Unmoved s t) (h' : Unmoved t u) : Unmoved s u :=
  ⟨fun l => (h'.state l).trans (h.state l), fun l => (h'.record l).trans (h.record l), h'.requests.trans h.requests,
    h'.pocket.trans h.pocket⟩

theorem unmoved_modLane (s : State) (l : Lane) (f : LaneUnit → LaneUnit) (hs : ∀ u, (f u).state = u.state)
    (hr : ∀ u, (f u).record = u.record) : Unmoved s (s.modLane l f) := by
  refine ⟨fun l' => ?_, fun l' => ?_, rfl, rfl⟩ <;> rw [State.modLane_lane]
  · split
    · next h => rw [hs, h]
    · rfl
  · split
    · next h => rw [hr, h]
    · rfl

theorem unmoved_make (s : State) (m : Made) : Unmoved s (s.make m) := by
  unfold State.make
  split
  · exact .refl s
  · exact .of_eq rfl rfl rfl

theorem unmoved_setHolds (s : State) (l : Lane) (h : HoldSet) : Unmoved s (s.setHolds l h) := by
  unfold State.setHolds
  split
  · exact .refl s
  · refine Unmoved.trans ?_ (unmoved_make _ _)
    exact unmoved_modLane s l _ (fun _ => rfl) (fun _ => rfl)

theorem unmoved_voucherQueued (s : State) (l : Lane) : Unmoved s (s.voucherQueued l) := by
  refine Unmoved.trans ?_ (unmoved_setHolds _ l _)
  exact unmoved_modLane s l _ (fun _ => rfl) (fun _ => rfl)

theorem unmoved_codeQueryQueued (s : State) (l : Lane) : Unmoved s (s.codeQueryQueued l) := by
  refine unmoved_modLane s l _ (fun u => ?_) (fun u => ?_) <;> split <;> rfl

theorem unmoved_ownerActs (s : State) (m : Made) : Unmoved s (s.ownerActs m) := by
  unfold State.ownerActs
  split
  · split
    · exact .refl s
    · exact unmoved_voucherQueued s _
  · split
    · exact .refl s
    · exact unmoved_codeQueryQueued s _
  · exact .refl s

theorem unmoved_ownersAct (l : List Made) (s : State) : Unmoved s (l.foldl State.ownerActs s) := by
  induction l generalizing s with
  | nil => exact .refl s
  | cons m l ih => exact (unmoved_ownerActs s m).trans (ih _)

theorem unmoved_draw (s : State) : Unmoved s s.draw.2 := by
  unfold State.draw
  split <;> exact .of_eq rfl rfl rfl

theorem unmoved_flush (s : State) : Unmoved s s.flush := by
  have hapart := offeredState_apart s
  rw [flush_eq]
  refine Unmoved.trans ?_ (unmoved_ownersAct _ _)
  exact .of_eq (congrArg State.lanes hapart :) (congrArg State.requests hapart :) (congrArg State.pocket hapart :)

theorem unmoved_offerParted (s : State) (may : Made → Bool) : Unmoved s (s.offerParted may) := by
  refine (unmoved_draw s).trans (Unmoved.trans (t := State.flush { s.draw.2 with outbox := (s.parted may).1 }) ?_ (.of_eq rfl rfl rfl))
  exact Unmoved.trans (t := { s.draw.2 with outbox := (s.parted may).1 }) (.of_eq rfl rfl rfl) (unmoved_flush _)

theorem unmoved_heldOutEnters (s : State) : Unmoved s s.heldOutEnters := by
  unfold State.heldOutEnters
  split
  · exact .refl s
  · dsimp only
    split
    · refine Unmoved.trans ?_ (unmoved_voucherQueued _ _)
      exact .of_eq rfl rfl rfl
    · refine Unmoved.trans ?_ (unmoved_codeQueryQueued _ _)
      exact .of_eq rfl rfl rfl
    · exact .of_eq rfl rfl rfl

theorem unmoved_setConveyor (s : State) (c : Conveyor) : Unmoved s (s.setConveyor c) := by
  unfold State.setConveyor
  split
  · exact .refl s
  · refine Unmoved.trans ?_ (unmoved_make _ _)
    exact .of_eq rfl rfl rfl

theorem unmoved_noteBin (s : State) (b : BinId) (e : BinEvent) : Unmoved s (s.noteBin b e) := by
  unfold State.noteBin
  split
  · exact .of_eq rfl rfl rfl
  · split
    · exact .refl s
    · split
      · exact .of_eq rfl rfl rfl
      · exact (unmoved_draw s).trans (.of_eq rfl rfl rfl)

theorem unmoved_startCompacting (s : State) (b : BinId) : Unmoved s (s.startCompacting b) := by
  rw [State.startCompacting, State.binTo, State.binEnters]
  split
  · refine Unmoved.trans ?_ (unmoved_noteBin _ b _)
    exact .of_eq rfl rfl rfl
  · exact .of_eq rfl rfl rfl

theorem dueConveyor_unmoved {s t : State} (h : s.dueConveyor = some t) : Unmoved s t := by
  unfold State.dueConveyor at h
  split at h
  · split at h <;> cases h
    exact unmoved_setConveyor s _
  · split at h <;> cases h
    unfold State.conveyorRunsOut
    split
    · exact unmoved_setConveyor s _
    · exact .refl s
  · split at h <;> cases h
    unfold State.conveyorResumes
    split
    · exact unmoved_setConveyor s _
    · exact .refl s
  all_goals cases h

/-! ### The state of a lane -/

theorem setLaneState_lane (s : State) (l l' : Lane) (t : LaneState) :
    (s.setLaneState l t).lane l' = if l = l' then { s.lane l with state := t } else s.lane l' := by
  unfold State.setLaneState
  split
  · next h =>
    split
    · next hl => rw [← hl, ← h]
    · rfl
  · rw [← State.modLane_lane s l l' (fun u => { u with state := t }), State.noteLane, State.make]
    split <;> rfl

theorem setLaneState_requests (s : State) (l : Lane) (t : LaneState) : (s.setLaneState l t).requests = s.requests := by
  rw [State.setLaneState, State.noteLane, State.make]
  split
  · rfl
  · split <;> rfl

theorem setLaneState_pocket (s : State) (l : Lane) (t : LaneState) : (s.setLaneState l t).pocket = s.pocket := by
  rw [State.setLaneState, State.noteLane, State.make]
  split
  · rfl
  · split <;> rfl

theorem setLaneState_bins (s : State) (l : Lane) (t : LaneState) : (s.setLaneState l t).bins = s.bins := by
  rw [State.setLaneState, State.noteLane, State.make]
  split
  · rfl
  · split <;> rfl

theorem setLaneState_corePart (s : State) (l : Lane) (t : LaneState) : (s.setLaneState l t).corePart = s.corePart := by
  rw [State.setLaneState, State.noteLane, State.make]
  split
  · rfl
  · split <;> rfl

section
variable {l : Lane} {r : ContainerRecord} {s : State} (h : Waits l r s)
include h

/-- Another lane moved on leaves the lane waiting. -/
theorem Waits.of_other {l' : Lane} (hne : l' ≠ l) (f : LaneUnit → LaneUnit) (t : LaneState) :
    Waits l r ((s.modLane l' f).setLaneState l' t) := by
  rw [Waits, setLaneState_lane, setLaneState_requests, setLaneState_pocket, if_neg hne, State.modLane_lane, if_neg hne]
  exact h

/-- A lane found for a rule that takes no lane in HOLD or HANDOFF with a record is another lane. -/
theorem Waits.ne_of_found {p : LaneUnit → Bool} {l' : Lane} (hf : s.findLane p = some l')
    (hp : ∀ u : LaneUnit, u.record = some r → (u.state = .hold ∨ u.state = .handoff) → p u = false) : l' ≠ l := by
  rintro rfl
  obtain ⟨hrec, hst⟩ := h
  have hno := hp _ hrec (hst.imp And.left And.left)
  rw [findLane_some hf] at hno
  cases hno

/-- A grant goes to the head of the list: to the lane itself, which enters HANDOFF, or to another before it (R108, R109). -/
theorem Waits.after_grant (hmay : s.mayGrant = true) : Waits l r s.grant := by
  obtain ⟨hrec, hst⟩ := h
  have hempty : s.pocket = .empty := by
    simp only [State.mayGrant, Bool.and_eq_true, beq_iff_eq] at hmay
    exact hmay.1.1.1
  obtain ⟨hhold, hin⟩ : (s.lane l).state = .hold ∧ l ∈ s.requests := by
    refine hst.resolve_right (fun hg => ?_)
    rw [hempty] at hg
    exact nomatch hg.2
  unfold State.grant
  split
  · next l' rest hreq =>
    rw [hreq] at hin
    rw [Waits, setLaneState_lane, setLaneState_requests, setLaneState_pocket, State.modLane_lane, State.modLane_lane]
    by_cases hl : l' = l
    · subst hl
      simp only [if_true]
      exact ⟨hrec, Or.inr ⟨trivial, beq_self_eq_true l'⟩⟩
    · simp only [if_neg hl]
      exact ⟨hrec, Or.inl ⟨hhold, (List.mem_cons.1 hin).resolve_left (Ne.symm hl)⟩⟩
  · next hreq =>
    rw [hreq] at hin
    cases hin

/-- Each rule of an event's end that takes no command leaves the lane waiting, or grants it the pocket. -/
theorem Waits.after_fire {t : State} (hf : fire s = some t) (hn : s.NoTake) : Waits l r t := by
  rcases fire_cases hf with hheld | hhold | hwake | hcompact | hvoucher | hgrant | hclosed | hadmit | hconveyor | hflush | htake | hbegin
  · unfold State.dueHeldOut at hheld
    split at hheld <;> cases hheld
    exact h.of_unmoved (unmoved_heldOutEnters s)
  · obtain ⟨l', -, rfl⟩ := Option.map_eq_some_iff.1 hhold
    exact h.of_unmoved (unmoved_setHolds s l' _)
  · obtain ⟨l', hl', rfl⟩ := Option.map_eq_some_iff.1 hwake
    refine h.of_other (h.ne_of_found hl' ?_) _ _
    rintro u - (hu | hu) <;> simp [LaneUnit.wakesUnheld, hu]
  · obtain ⟨b, -, rfl⟩ := Option.map_eq_some_iff.1 hcompact
    exact h.of_unmoved (unmoved_startCompacting s b)
  · obtain ⟨l', -, rfl⟩ := Option.map_eq_some_iff.1 hvoucher
    refine h.of_unmoved (Unmoved.trans ?_ (unmoved_make _ _))
    exact unmoved_modLane s l' _ (fun _ => rfl) (fun _ => rfl)
  · unfold State.dueGrant at hgrant
    split at hgrant
    · next hg =>
      cases hgrant
      exact h.after_grant (Bool.and_eq_true_iff.1 hg).1
    · cases hgrant
  · obtain ⟨l', hl', rfl⟩ := Option.map_eq_some_iff.1 hclosed
    refine h.of_other (h.ne_of_found hl' ?_) _ _
    intro u hu _
    simp [LaneUnit.closes, hu]
  · obtain ⟨l', hl', rfl⟩ := Option.map_eq_some_iff.1 hadmit
    refine h.of_other (h.ne_of_found hl' ?_) _ _
    rintro u - (hu | hu) <;> simp [LaneUnit.admits, hu]
  · exact h.of_unmoved (dueConveyor_unmoved hconveyor)
  · rcases dueFlush_cases hflush with ⟨rfl, -⟩ | ⟨rfl, -⟩ | ⟨-, ht⟩
    · exact h.of_unmoved (unmoved_flush s)
    · exact h.of_unmoved (unmoved_offerParted s _)
    · rw [takesReporting_noTake hn] at ht
      cases ht
  · unfold State.dueTake at htake
    split at htake
    · next hi =>
      simp only [Bool.and_eq_true, Option.isNone_iff_eq_none, Bool.not_eq_true', List.isEmpty_eq_false_iff] at hi
      exact absurd (intake_of_noTake hn (Or.inl hi.1)) hi.2
    · cases htake
  · obtain ⟨k, -, rfl⟩ := Option.map_eq_some_iff.1 hbegin
    exact h.of_unmoved (.of_eq rfl rfl rfl)

/-- The end of an event at which no command is taken leaves the lane waiting, or grants it the pocket. -/
theorem Waits.after_settle (hn : s.NoTake) : Waits l r (settle s) := by
  have hboth : Waits l r (settle s) ∧ (settle s).NoTake := by
    refine settle_induct (P := fun t => Waits l r t ∧ t.NoTake) ?_ ?_ s ⟨h, hn⟩
    · rintro t u hf ⟨hw, ht⟩
      exact ⟨hw.after_fire hf ht, fire_noTake hf ht⟩
    · rintro t ⟨hw, ht⟩
      refine ⟨hw.of_unmoved ⟨fun l => ?_, fun l => ?_, rfl, rfl⟩, ht⟩ <;> rw [syncShutters_lane] <;> rfl
  exact hboth.1

end

/-! ### The choice of a bin and the accept (R91, R92, R153, R154) -/

theorem foldl_betterBin_mem (s : State) (l : List BinId) (best : Option BinId) {b : BinId} (h : l.foldl (betterBin s) best = some b) :
    best = some b ∨ b ∈ l := by
  induction l generalizing best with
  | nil => exact Or.inl h
  | cons a l ih =>
    rcases ih _ h with hb | hb
    · unfold betterBin at hb
      split at hb
      · exact Or.inr (List.mem_cons.2 (Or.inl (Option.some.inj hb).symm))
      · split at hb
        · exact Or.inr (List.mem_cons.2 (Or.inl (Option.some.inj hb).symm))
        · exact Or.inl hb
    · exact Or.inr (List.mem_cons_of_mem a hb)

/-- R154: a bin chosen is eligible. -/
theorem chooseBin_eligible {s : State} {m : Material} {p : Option BinId} {b : BinId} (h : s.chooseBin m p = some b) :
    (s.bin b).eligible m = true := by
  have byRoom : (allBins.filter (fun b => (s.bin b).eligible m)).foldl (betterBin s) none = some b → (s.bin b).eligible m = true := by
    intro h
    have hmem := (foldl_betterBin_mem s _ none h).resolve_left (by simp)
    exact (List.mem_filter.1 hmem).2
  unfold State.chooseBin at h
  split at h
  · split at h
    · next hp =>
      cases h
      exact hp
    · exact byRoom h
  · exact byRoom h

/-- R19, R104: in HOLD the lane stands in the list, and its record, the bins and the core are as they were. -/
theorem enterHold_spec (s : State) (l : Lane) :
    ((s.enterHold l).lane l).state = .hold ∧ ((s.enterHold l).lane l).record = (s.lane l).record ∧ l ∈ (s.enterHold l).requests ∧
      (s.enterHold l).bins = s.bins ∧ (s.enterHold l).corePart = s.corePart ∧ (s.enterHold l).link = s.link := by
  refine ⟨?_, ?_, ?_, ?_, ?_, ?_⟩
  · show ((State.setLaneState _ l .hold).lane l).state = _
    rw [setLaneState_lane, if_pos rfl]
  · show ((State.setLaneState _ l .hold).lane l).record = _
    rw [setLaneState_lane, if_pos rfl, State.modLane_lane_self]
  · exact List.mem_append_right _ List.mem_cons_self
  · exact setLaneState_bins _ l .hold
  · exact setLaneState_corePart _ l .hold
  · exact taking_setLaneState _ l .hold

/-- R172: the withdrawal of a waiting VOUCHER touches nothing of the lane's record, the bins or the core. -/
theorem withdrawWaiting_spec (s : State) (l : Lane) :
    ((s.withdrawWaiting l).lane l).record = (s.lane l).record ∧ (s.withdrawWaiting l).bins = s.bins ∧
      (s.withdrawWaiting l).corePart = s.corePart ∧ (s.withdrawWaiting l).link.taking = s.link.taking := by
  unfold State.withdrawWaiting
  split
  · have hmod := unmoved_modLane s l (fun u => { u with session := { u.session with voucherWaiting := false } }) (fun _ => rfl)
      (fun _ => rfl)
    exact ⟨(hmod.trans (u := s.withdrawVoucher l) (.of_eq rfl rfl rfl)).record l, rfl, rfl, rfl⟩
  · exact ⟨rfl, rfl, rfl, rfl⟩

/-- R91, R92: what an ACCEPT writes, and what it leaves. -/
theorem acceptRecord_spec {s : State} {l : Lane} {r : ContainerRecord} (hr : (s.lane l).record = some r) (c : ClassId) (b : BinId) :
    Waits l (r.accepted c (s.classAt c) b) (s.acceptRecord l c b) ∧
      (s.acceptRecord l c b).bin b = { s.bin b with reserved := (s.bin b).reserved + 1 } ∧
      (s.acceptRecord l c b).corePart = s.corePart ∧ (s.acceptRecord l c b).link.taking = s.link.taking := by
  rw [State.acceptRecord, hr]
  dsimp only
  generalize ht : (s.reserve b).modLane l (fun u => { u with record := some (r.accepted c (s.classAt c) b) }) = t
  have hrecord : (t.lane l).record = some (r.accepted c (s.classAt c) b) := by rw [← ht, State.modLane_lane_self]
  have hbin : t.bin b = { s.bin b with reserved := (s.bin b).reserved + 1 } := by
    rw [← ht, State.modLane_bin, State.reserve, State.modBin_bin_self]
  have hcore : t.corePart = s.corePart := by rw [← ht]; rfl
  have hlink : t.link = s.link := by rw [← ht]; rfl
  obtain ⟨wrecord, wbins, wcore, wtaking⟩ := withdrawWaiting_spec t l
  obtain ⟨estate, erecord, erequests, ebins, ecore, elink⟩ :=
    enterHold_spec ((t.withdrawWaiting l).makeWhole ((r.accepted c (s.classAt c) b).report .accept (some c))) l
  refine ⟨⟨erecord.trans (wrecord.trans hrecord), Or.inl ⟨estate, erequests⟩⟩, ?_, ecore.trans (wcore.trans hcore), ?_⟩
  · exact (congrArg (fun bins : Vector BinUnit 6 => bins[b]) (ebins.trans wbins)).trans hbin
  · rw [elink, ← hlink]
    exact wtaking

/-- A state that differs from s in lane l and reports alone gives s back when the lane is put back. -/
theorem onlyLane_of_apart {s t : State} {l : Lane} {u : LaneUnit} (h : t.apart = (s.setLane l u).apart) : t.OnlyLane l s := by
  have hback : (t.setLane l (s.lane l)).apart = ((s.setLane l u).setLane l (s.lane l)).apart :=
    congrArg (fun a : State => a.setLane l (s.lane l)) h
  rw [State.OnlyLane, hback, setLane_setLane, setLane_lane_same]

section
variable {s : State} {l : Lane} {r : ContainerRecord}

/-- A lane that has left WEIGH for QUERY has no rule due. -/
theorem due_asking {held : Bool} {u v : LaneUnit} (hv : v.due held = false) (ho : v.isOpen = true) (hu : u.state = .query)
    (hr : u.record = some r) (hverdict : r.verdict = none) (hh : u.holds = v.holds) (hs : u.session = v.session)
    (ha : v.holdsAccept = false) : u.due held = false := by
  simp only [LaneUnit.due, Bool.or_eq_false_iff] at hv ⊢
  obtain ⟨⟨⟨⟨hhold, -⟩, hvoucher⟩, -⟩, -⟩ := hv
  have hacc : u.holdsAccept = false := by simp [LaneUnit.holdsAccept, LaneUnit.verdict, hr, hverdict]
  refine ⟨⟨⟨⟨?_, ?_⟩, ?_⟩, ?_⟩, ?_⟩
  · rw [ho, Bool.true_and] at hhold
    rw [hh, hhold, Bool.and_false]
  · simp [LaneUnit.wakesUnheld, hu]
  · simpa only [LaneUnit.voucherDue, hs, hacc, ha] using hvoucher
  · simp [LaneUnit.closes, hr]
  · simp [LaneUnit.admits, hu]

/-- The deciding sample of a CONTAINER run that opens a query. -/
theorem Deciding.exec_query (hdec : Deciding s l r) {x : BitVec 16} {r' : ContainerRecord} (hv' : r'.verdict = none) {code : Code}
    (h : s.sample l x.toInt = (s.setLane l (weighed (s.lane l) r')).openQuery l r'.seq code) :
    ∃ t, exec (.converterSample l x) s = .next t ∧ t.OnlyLane l s ∧ (t.lane l).state = .query ∧ (t.lane l).record = some r' ∧
      ((t.lane l).query = .opened r'.seq code s.corner.queryTimeout ∧ t.Told (.codeQuery l r'.seq code) ∨
        (t.lane l).query = .waitingRoom r'.seq code ∧ .codeQuery l r'.seq code ∈ t.link.heldOut) := by
  have hs := hdec.ready
  have hquery : (weighed (s.lane l) r').state ≠ .query := by simp [weighed, hdec.weighs]
  have hacc : (s.lane l).holdsAccept = false := by simp [LaneUnit.holdsAccept, LaneUnit.verdict, hdec.record, hdec.verdict]
  have hdue := due_asking (u := { weighed (s.lane l) r' with state := .query, query := .waitingRoom r'.seq code }) (due_of_ready hs l)
    (isOpen_of_not_closed (by simp [hdec.weighs])) rfl rfl hv' rfl rfl hacc
  obtain ⟨t, waits, ht, hapart, hheld, htold⟩ := settle_asking (l := l) hs hdue rfl
  have hlane : t.lane l = _ := (congrArg (fun t : State => t.lane l) hapart :).trans (State.setLane_lane_self s l _)
  refine ⟨t, ?_, onlyLane_of_apart hapart, ?_, ?_, ?_⟩
  · rw [exec_sample_next hs (h.trans (openQuery_eq (outbox_of_ready hs) hquery _ _)), ← ht]
  · rw [hlane]
    rfl
  · rw [hlane]
    rfl
  · rw [hlane]
    cases waits with
    | true => exact Or.inr ⟨rfl, hheld rfl⟩
    | false => exact Or.inl ⟨rfl, htold⟩

/-- The deciding sample of a CONTAINER run that ends in an ACCEPT, with a bin chosen. -/
theorem Deciding.exec_accept (hdec : Deciding s l r) {x : BitVec 16} {r' : ContainerRecord} {c : ClassId} {b : BinId}
    (hbin : s.chooseBin (s.classAt c).material (s.classAt c).preferred = some b)
    (h : s.sample l x.toInt = (s.setLane l (weighed (s.lane l) r')).acceptRecord l c b) :
    ∃ t, exec (.converterSample l x) s = .next t ∧ (t.lane l).record = some (r'.accepted c (s.classAt c) b) ∧
      ((t.lane l).state = .hold ∧ l ∈ t.requests ∨ (t.lane l).state = .handoff ∧ t.pocket.grantedTo l = true) ∧
      (t.bin b).reserved = (s.bin b).reserved + 1 ∧ t.corePart = s.corePart := by
  have hs := hdec.ready
  have hrecord : ((s.setLane l (weighed (s.lane l) r')).lane l).record = some r' := by rw [State.setLane_lane_self]; rfl
  obtain ⟨hwaits, hreserved, hcore, htaking⟩ := acceptRecord_spec hrecord c b
  have hnotake : ((s.setLane l (weighed (s.lane l) r')).acceptRecord l c b).NoTake := noTake_of_taking (noTake_of_rest s hs.2.1) htaking
  have hopen : (s.bin b).state = .opened := by
    have he := chooseBin_eligible hbin
    simp only [BinUnit.eligible, Bool.and_eq_true, beq_iff_eq] at he
    exact he.1.1
  obtain ⟨hrec, hplace⟩ := hwaits.after_settle hnotake
  refine ⟨_, exec_sample_next hs h, hrec, hplace, ?_, (settle_core _ hnotake).trans hcore⟩
  rw [settle_bin _ hnotake b (by rw [hreserved]; simp [hopen]), hreserved]
  rfl

end

/-- Settles O48: the result of the window, the check that decides, and the event that its verdict brings. -/
theorem theDecidingWindowJudgesTheContainer : Obligations.TheDecidingWindowJudgesTheContainer := by
  refine ⟨?badCode, ?excluded, ?unknown, ?query, ?classFails, ?noBin, ?accept, ?unstable, ?overweight, ?negative⟩
  case badCode =>
    intro s l x r reason hs hon hphase hlen hstate hrun hr hv hd hend hsteady hgood
    have hdec : Deciding s l r := ⟨hs, ⟨hon, hphase, hlen⟩, hstate, hrun, hr, hv, hd⟩
    exact hdec.exec_reject (r' := steadyRecord (s.lane l) x.toInt r) hd ((hdec.sample_steady hend hsteady).trans
      (weighed_badCode rfl hgood))
  case excluded =>
    intro s l x r code hs hon hphase hlen hstate hrun hr hv hd hend hsteady hgood hlookup
    have hdec : Deciding s l r := ⟨hs, ⟨hon, hphase, hlen⟩, hstate, hrun, hr, hv, hd⟩
    exact hdec.exec_reject (r' := steadyRecord (s.lane l) x.toInt r) hd ((hdec.sample_steady hend hsteady).trans
      (weighed_excluded rfl hgood hlookup))
  case unknown =>
    intro s l x r code hs hon hphase hlen hstate hrun hr hv hd hend hsteady hgood hlookup hq
    have hdec : Deciding s l r := ⟨hs, ⟨hon, hphase, hlen⟩, hstate, hrun, hr, hv, hd⟩
    exact hdec.exec_reject (r' := steadyRecord (s.lane l) x.toInt r) hd ((hdec.sample_steady hend hsteady).trans
      (weighed_unknown rfl hgood hlookup hq))
  case query =>
    intro s l x r code hs hon hphase hlen hstate hrun hr hv hd hend hsteady hgood hlookup hq
    have hdec : Deciding s l r := ⟨hs, ⟨hon, hphase, hlen⟩, hstate, hrun, hr, hv, hd⟩
    exact hdec.exec_query (r' := steadyRecord (s.lane l) x.toInt r) hv ((hdec.sample_steady hend hsteady).trans
      (weighed_query rfl hgood hlookup hq))
  case classFails =>
    intro s l x r code c reason hs hon hphase hlen hstate hrun hr hv hd hend hsteady hgood hlookup hreason
    have hdec : Deciding s l r := ⟨hs, ⟨hon, hphase, hlen⟩, hstate, hrun, hr, hv, hd⟩
    exact hdec.exec_reject (r' := steadyRecord (s.lane l) x.toInt r) hd ((hdec.sample_steady hend hsteady).trans
      (weighed_classFails rfl hgood hlookup hreason))
  case noBin =>
    intro s l x r code c hs hon hphase hlen hstate hrun hr hv hd hend hsteady hgood hlookup hpass hbin
    have hdec : Deciding s l r := ⟨hs, ⟨hon, hphase, hlen⟩, hstate, hrun, hr, hv, hd⟩
    exact hdec.exec_reject (r' := steadyRecord (s.lane l) x.toInt r) hd ((hdec.sample_steady hend hsteady).trans
      (weighed_noBin rfl hgood hlookup hpass hbin))
  case accept =>
    intro s l x r code c b hs hon hphase hlen hstate hrun hr hv hd hend hsteady hgood hlookup hpass hbin
    have hdec : Deciding s l r := ⟨hs, ⟨hon, hphase, hlen⟩, hstate, hrun, hr, hv, hd⟩
    exact hdec.exec_accept (r' := steadyRecord (s.lane l) x.toInt r) hbin ((hdec.sample_steady hend hsteady).trans
      (weighed_accepts rfl hgood hlookup hpass hbin))
  case unstable =>
    intro s l x r hs hon hphase hlen hstate hrun hr hv hd hend hmoves hlast
    have hdec : Deciding s l r := ⟨hs, ⟨hon, hphase, hlen⟩, hstate, hrun, hr, hv, hd⟩
    exact hdec.exec_reject (r' := weighedRecord r .unstable (s.lane l).weigher.gain) hd
      ((hdec.sample_unstable hend hmoves hlast).trans (judge_unstable record_weighed rfl))
  case overweight =>
    intro s l x r hs hon hphase hlen hstate hrun hr hv hd hgain hend hlow
    have hdec : Deciding s l r := ⟨hs, ⟨hon, hphase, hlen⟩, hstate, hrun, hr, hv, hd⟩
    exact hdec.exec_reject (r' := weighedRecord r .overweight .g1) hd
      ((hdec.sample_overweight hgain hend hlow).trans (judge_overweight record_weighed rfl))
  case negative =>
    intro s l x r hs hon hphase hlen hstate hrun hr hv hd hgain hend hlow
    have hdec : Deciding s l r := ⟨hs, ⟨hon, hphase, hlen⟩, hstate, hrun, hr, hv, hd⟩
    exact hdec.exec_fault (hdec.sample_negative hgain hend hlow)

end Sys2Proof.Machine.Weighing
